-- ==== Sys2Proof/Word.lean ====
section
/-!
DEFINITION. The words of the CHIP-8 core and the sizes the spec fixes (spec/00_scope.md R4, R6).
Every quantity is unsigned; bit 0 is the least significant bit (R6).
-/

namespace Sys2Proof

/-- An 8-bit value: a memory cell, a general register, a timer (R4). -/
abbrev Byte := BitVec 8

/-- A 16-bit value: an instruction word, I, PC, a stack entry (R4). -/
abbrev Word := BitVec 16

/-- A 4-bit slice of an instruction word (R7). -/
abbrev Nibble := BitVec 4

/-- The 12-bit `addr` field of an instruction word (R62). -/
abbrev Addr := BitVec 12

/-- A general register number or a key number, 0 to 15 (R10, R26). -/
abbrev Reg := Fin 16

/-- VF, the flag output, is `V[15]` (R11). -/
abbrev vF : Reg := 15

/-- Memory cells: addresses 0 to 4095 (R4 MEM_SIZE). -/
abbrev memSize : Nat := 4096

/-- Bytes of the glyph table, at addresses 0 to 79 (R4 FONT_SIZE). -/
abbrev fontSize : Nat := 80

/-- First address of a loaded program, and the reset value of PC (R4 PROG_BASE). -/
abbrev progBase : Nat := 0x200

/-- Longest ROM, 4096 - 0x200 (R4 PROG_MAX). -/
abbrev progMax : Nat := 3584

/-- Entries of the return-address stack (R4 STACK_DEPTH). -/
abbrev stackDepth : Nat := 16

end Sys2Proof
end

