-- ==== Sys2Proof/Syntax.lean ====
section
/-!
DEFINITION. The instruction forms (spec/30_encoding.md R66), one constructor per row of
spec/opcode_table.json, in the table's order.
-/

namespace Sys2Proof

/-- The decoded instruction: the 34 forms of R66, with the operands of R62, and the reserved row
`0NNN` (R69), which is no instruction of this hardware and raises DecodeError.
`x`, `y` are register numbers, `nn` the immediate, `addr` the 12-bit address, `n` the row count. -/
inductive Instr where
  /-- `00E0` clear-screen, R113. -/
  | clearScreen
  /-- `00EE` return, R80. -/
  | ret
  /-- `1aaa` jump, R81. -/
  | jump (addr : Addr)
  /-- `2aaa` call, R82. -/
  | call (addr : Addr)
  /-- `3xkk` skip-eq-imm, R85. -/
  | skipEqImm (x : Reg) (nn : Byte)
  /-- `4xkk` skip-neq-imm, R86. -/
  | skipNeqImm (x : Reg) (nn : Byte)
  /-- `5xy0` skip-eq-reg, R87. -/
  | skipEqReg (x y : Reg)
  /-- `6xkk` set-imm, R90. -/
  | setImm (x : Reg) (nn : Byte)
  /-- `7xkk` add-imm, R91. -/
  | addImm (x : Reg) (nn : Byte)
  /-- `8xy0` copy, R92. -/
  | copy (x y : Reg)
  /-- `8xy1` or, R93. -/
  | orReg (x y : Reg)
  /-- `8xy2` and, R94. -/
  | andReg (x y : Reg)
  /-- `8xy3` xor, R95. -/
  | xorReg (x y : Reg)
  /-- `8xy4` add-reg, R96. -/
  | addReg (x y : Reg)
  /-- `8xy5` sub-reg, R97. -/
  | subReg (x y : Reg)
  /-- `8xy6` shift-right, R98; the form carries `x` only (R65). -/
  | shiftRight (x : Reg)
  /-- `8xy7` sub-reg-rev, R99. -/
  | subRegRev (x y : Reg)
  /-- `8xyE` shift-left, R100; the form carries `x` only (R65). -/
  | shiftLeft (x : Reg)
  /-- `9xy0` skip-neq-reg, R88. -/
  | skipNeqReg (x y : Reg)
  /-- `Aaaa` set-index, R105. -/
  | setIndex (addr : Addr)
  /-- `Baaa` jump-offset, R83. -/
  | jumpOffset (addr : Addr)
  /-- `Cxkk` rand-and, R103. -/
  | randAnd (x : Reg) (nn : Byte)
  /-- `Dxyn` draw, R114. -/
  | draw (x y : Reg) (n : Fin 16)
  /-- `Ex9E` skip-key-pressed, R118. -/
  | skipKeyPressed (x : Reg)
  /-- `ExA1` skip-key-not-pressed, R119. -/
  | skipKeyNotPressed (x : Reg)
  /-- `Fx07` read-delay, R122. -/
  | readDelay (x : Reg)
  /-- `Fx0A` await-key, R120. -/
  | awaitKey (x : Reg)
  /-- `Fx15` set-delay, R123. -/
  | setDelay (x : Reg)
  /-- `Fx18` set-sound, R124. -/
  | setSound (x : Reg)
  /-- `Fx1E` add-index, R106. -/
  | addIndex (x : Reg)
  /-- `Fx29` font-address, R107. -/
  | fontAddress (x : Reg)
  /-- `Fx33` bcd, R108. -/
  | bcd (x : Reg)
  /-- `Fx55` store-regs, R109. -/
  | storeRegs (x : Reg)
  /-- `Fx65` load-regs, R110. -/
  | loadRegs (x : Reg)
  /-- `0aaa` other than `00E0` and `00EE`: the reserved row, R69 (DESIGN CHOICE of form,
  notes/assumptions/10.md). -/
  | reserved0NNN (addr : Addr)
  deriving DecidableEq, Repr

end Sys2Proof
end

