-- ==== Sys2Proof/WellFormed.lean ====
section
/-!
DEFINITION. Which terms of `Instr` are instructions (spec/30_encoding.md R62, R66, R69).
The field ranges of R62 are in the types; the one check left is the reserved row's exclusion list.
-/

namespace Sys2Proof

/-- Every value of every field is legal (R71); the row `0NNN` excludes the two words `00E0` and
`00EE`, which are clear-screen and return (R69 and the table's "excludes"). -/
def Instr.wellFormed : Instr → Bool
  | .clearScreen => true
  | .ret => true
  | .jump _ => true
  | .call _ => true
  | .skipEqImm _ _ => true
  | .skipNeqImm _ _ => true
  | .skipEqReg _ _ => true
  | .setImm _ _ => true
  | .addImm _ _ => true
  | .copy _ _ => true
  | .orReg _ _ => true
  | .andReg _ _ => true
  | .xorReg _ _ => true
  | .addReg _ _ => true
  | .subReg _ _ => true
  | .shiftRight _ => true
  | .subRegRev _ _ => true
  | .shiftLeft _ => true
  | .skipNeqReg _ _ => true
  | .setIndex _ => true
  | .jumpOffset _ => true
  | .randAnd _ _ => true
  | .draw _ _ _ => true
  | .skipKeyPressed _ => true
  | .skipKeyNotPressed _ => true
  | .readDelay _ => true
  | .awaitKey _ => true
  | .setDelay _ => true
  | .setSound _ => true
  | .addIndex _ => true
  | .fontAddress _ => true
  | .bcd _ => true
  | .storeRegs _ => true
  | .loadRegs _ => true
  | .reserved0NNN addr => addr != 0x0E0 && addr != 0x0EE

end Sys2Proof
end

