-- ==== Sys2Proof/Decode.lean ====
section
/-!
DEFINITION. The decoder and the encoder (spec/30_encoding.md R60 to R72), the byte order of the
instruction word (spec/20_memory.md R43), and the opcode map's masks and matches (R66).
-/

namespace Sys2Proof

/-! ## Words, bytes and fields -/

/-- The big-endian word of two bytes, `256 * hi + lo` (R43). -/
def beWord (hi lo : Byte) : Word := BitVec.ofNat 16 (256 * hi.toNat + lo.toNat)

/-- The byte of a word at the lower address (R43). -/
def hiByte (w : Word) : Byte := BitVec.ofNat 8 (w.toNat / 256)

/-- The byte of a word at the higher address (R43). -/
def loByte (w : Word) : Byte := BitVec.ofNat 8 w.toNat

/-- `n0 = w[15:12]` (R7, R61). -/
def nibble0 (w : Word) : Nibble := w.extractLsb' 12 4

/-- `n1 = w[11:8]` (R7, R61). -/
def nibble1 (w : Word) : Nibble := w.extractLsb' 8 4

/-- `n2 = w[7:4]` (R7, R61). -/
def nibble2 (w : Word) : Nibble := w.extractLsb' 4 4

/-- `n3 = w[3:0]` (R7, R61). -/
def nibble3 (w : Word) : Nibble := w.extractLsb' 0 4

/-- `x = w[11:8]`, a register number (R62). -/
def fieldX (w : Word) : Reg := (nibble1 w).toFin

/-- `y = w[7:4]`, a register number (R62). -/
def fieldY (w : Word) : Reg := (nibble2 w).toFin

/-- `n = w[3:0]`, the row count (R62). -/
def fieldN (w : Word) : Fin 16 := (nibble3 w).toFin

/-- `nn = w[7:0]`, the immediate (R62). -/
def fieldNN (w : Word) : Byte := w.extractLsb' 0 8

/-- `addr = w[11:0]` (R62). -/
def fieldAddr (w : Word) : Addr := w.extractLsb' 0 12

/-! ## The decoder -/

/-- Why bytes do not decode. -/
inductive DecodeFailure where
  /-- Fewer than the two bytes of an instruction (R60). -/
  | truncated
  /-- A word that matches no form, with its four nibbles, most significant first (R68, R70). -/
  | unknownWord (n0 n1 n2 n3 : Nibble)
  deriving DecidableEq, Repr

/-- The decode failure of a word (R70). -/
def unknown (w : Word) : DecodeFailure :=
  .unknownWord (nibble0 w) (nibble1 w) (nibble2 w) (nibble3 w)

/-- Family 8 of R64: the last nibble selects the form. -/
def decodeFamily8 (w : Word) : Except DecodeFailure Instr :=
  match (nibble3 w).toNat with
  | 0x0 => .ok (.copy (fieldX w) (fieldY w))
  | 0x1 => .ok (.orReg (fieldX w) (fieldY w))
  | 0x2 => .ok (.andReg (fieldX w) (fieldY w))
  | 0x3 => .ok (.xorReg (fieldX w) (fieldY w))
  | 0x4 => .ok (.addReg (fieldX w) (fieldY w))
  | 0x5 => .ok (.subReg (fieldX w) (fieldY w))
  | 0x6 => .ok (.shiftRight (fieldX w))
  | 0x7 => .ok (.subRegRev (fieldX w) (fieldY w))
  | 0xE => .ok (.shiftLeft (fieldX w))
  | _ => .error (unknown w)

/-- Family E of R64: the low byte selects the form. -/
def decodeFamilyE (w : Word) : Except DecodeFailure Instr :=
  match (fieldNN w).toNat with
  | 0x9E => .ok (.skipKeyPressed (fieldX w))
  | 0xA1 => .ok (.skipKeyNotPressed (fieldX w))
  | _ => .error (unknown w)

/-- Family F of R64: the low byte selects the form. -/
def decodeFamilyF (w : Word) : Except DecodeFailure Instr :=
  match (fieldNN w).toNat with
  | 0x07 => .ok (.readDelay (fieldX w))
  | 0x0A => .ok (.awaitKey (fieldX w))
  | 0x15 => .ok (.setDelay (fieldX w))
  | 0x18 => .ok (.setSound (fieldX w))
  | 0x1E => .ok (.addIndex (fieldX w))
  | 0x29 => .ok (.fontAddress (fieldX w))
  | 0x33 => .ok (.bcd (fieldX w))
  | 0x55 => .ok (.storeRegs (fieldX w))
  | 0x65 => .ok (.loadRegs (fieldX w))
  | _ => .error (unknown w)

/-- `Decode(w)` of R64, total on all 65536 words, with one difference in form: a word of the
reserved row `0NNN` decodes to its constructor, and the meaning of that constructor raises the
DecodeError (R69). `decodeForm` is R64 itself. -/
def decodeWord (w : Word) : Except DecodeFailure Instr :=
  match (nibble0 w).toNat with
  | 0x0 =>
    if w = 0x00E0 then .ok .clearScreen
    else if w = 0x00EE then .ok .ret
    else .ok (.reserved0NNN (fieldAddr w))
  | 0x1 => .ok (.jump (fieldAddr w))
  | 0x2 => .ok (.call (fieldAddr w))
  | 0x3 => .ok (.skipEqImm (fieldX w) (fieldNN w))
  | 0x4 => .ok (.skipNeqImm (fieldX w) (fieldNN w))
  | 0x5 => if nibble3 w = 0 then .ok (.skipEqReg (fieldX w) (fieldY w)) else .error (unknown w)
  | 0x6 => .ok (.setImm (fieldX w) (fieldNN w))
  | 0x7 => .ok (.addImm (fieldX w) (fieldNN w))
  | 0x8 => decodeFamily8 w
  | 0x9 => if nibble3 w = 0 then .ok (.skipNeqReg (fieldX w) (fieldY w)) else .error (unknown w)
  | 0xA => .ok (.setIndex (fieldAddr w))
  | 0xB => .ok (.jumpOffset (fieldAddr w))
  | 0xC => .ok (.randAnd (fieldX w) (fieldNN w))
  | 0xD => .ok (.draw (fieldX w) (fieldY w) (fieldN w))
  | 0xE => decodeFamilyE w
  | _ => decodeFamilyF w

/-- `Decode(w)` of R64: one of the 34 forms, or the decode failure with the four nibbles. -/
def decodeForm (w : Word) : Except DecodeFailure Instr :=
  match decodeWord w with
  | .ok (.reserved0NNN _) => .error (unknown w)
  | r => r

/-- The instruction at the head of a byte sequence and the bytes after it (R60: always two). -/
def decode : List Byte → Except DecodeFailure (Instr × List Byte)
  | hi :: lo :: rest =>
    match decodeWord (beWord hi lo) with
    | .ok i => .ok (i, rest)
    | .error f => .error f
  | _ => .error .truncated

/-! ## The encoder -/

/-- The word of four nibbles, most significant first (R61). -/
def ofNibbles (n0 n1 n2 n3 : Nat) : Word :=
  BitVec.ofNat 16 (0x1000 * n0 + 0x100 * n1 + 0x10 * n2 + n3)

/-- Format ADDR of R61. -/
def encodeAddr (op : Nat) (addr : Addr) : Word := BitVec.ofNat 16 (0x1000 * op + addr.toNat)

/-- Format XNN of R61; format X is the same with the sub-opcode for `nn`. -/
def encodeXNN (op : Nat) (x : Reg) (nn : Byte) : Word :=
  BitVec.ofNat 16 (0x1000 * op + 0x100 * x.val + nn.toNat)

/-- Formats XY and XYN of R61. -/
def encodeXYN (op : Nat) (x y : Reg) (n : Fin 16) : Word := ofNibbles op x.val y.val n.val

/-- The word of an instruction, by the patterns of R66. The ignored `y` nibble of the shifts is
encoded as 0 (DESIGN CHOICE, safe, notes/assumptions/7.md). -/
def encode : Instr → Word
  | .clearScreen => 0x00E0
  | .ret => 0x00EE
  | .jump addr => encodeAddr 0x1 addr
  | .call addr => encodeAddr 0x2 addr
  | .skipEqImm x nn => encodeXNN 0x3 x nn
  | .skipNeqImm x nn => encodeXNN 0x4 x nn
  | .skipEqReg x y => encodeXYN 0x5 x y 0x0
  | .setImm x nn => encodeXNN 0x6 x nn
  | .addImm x nn => encodeXNN 0x7 x nn
  | .copy x y => encodeXYN 0x8 x y 0x0
  | .orReg x y => encodeXYN 0x8 x y 0x1
  | .andReg x y => encodeXYN 0x8 x y 0x2
  | .xorReg x y => encodeXYN 0x8 x y 0x3
  | .addReg x y => encodeXYN 0x8 x y 0x4
  | .subReg x y => encodeXYN 0x8 x y 0x5
  | .shiftRight x => encodeXYN 0x8 x 0 0x6
  | .subRegRev x y => encodeXYN 0x8 x y 0x7
  | .shiftLeft x => encodeXYN 0x8 x 0 0xE
  | .skipNeqReg x y => encodeXYN 0x9 x y 0x0
  | .setIndex addr => encodeAddr 0xA addr
  | .jumpOffset addr => encodeAddr 0xB addr
  | .randAnd x nn => encodeXNN 0xC x nn
  | .draw x y n => encodeXYN 0xD x y n
  | .skipKeyPressed x => encodeXNN 0xE x 0x9E
  | .skipKeyNotPressed x => encodeXNN 0xE x 0xA1
  | .readDelay x => encodeXNN 0xF x 0x07
  | .awaitKey x => encodeXNN 0xF x 0x0A
  | .setDelay x => encodeXNN 0xF x 0x15
  | .setSound x => encodeXNN 0xF x 0x18
  | .addIndex x => encodeXNN 0xF x 0x1E
  | .fontAddress x => encodeXNN 0xF x 0x29
  | .bcd x => encodeXNN 0xF x 0x33
  | .storeRegs x => encodeXNN 0xF x 0x55
  | .loadRegs x => encodeXNN 0xF x 0x65
  | .reserved0NNN addr => encodeAddr 0x0 addr

/-- The bytes of an instruction in memory order (R43). -/
def encodeBytes (i : Instr) : List Byte := [hiByte (encode i), loByte (encode i)]

/-! ## The opcode map -/

/-- The row of R66 an instruction belongs to, as (mask, match); the last row is the reserved one. -/
def Instr.opcodeRow : Instr → Word × Word
  | .clearScreen => (0xFFFF, 0x00E0)
  | .ret => (0xFFFF, 0x00EE)
  | .jump _ => (0xF000, 0x1000)
  | .call _ => (0xF000, 0x2000)
  | .skipEqImm _ _ => (0xF000, 0x3000)
  | .skipNeqImm _ _ => (0xF000, 0x4000)
  | .skipEqReg _ _ => (0xF00F, 0x5000)
  | .setImm _ _ => (0xF000, 0x6000)
  | .addImm _ _ => (0xF000, 0x7000)
  | .copy _ _ => (0xF00F, 0x8000)
  | .orReg _ _ => (0xF00F, 0x8001)
  | .andReg _ _ => (0xF00F, 0x8002)
  | .xorReg _ _ => (0xF00F, 0x8003)
  | .addReg _ _ => (0xF00F, 0x8004)
  | .subReg _ _ => (0xF00F, 0x8005)
  | .shiftRight _ => (0xF00F, 0x8006)
  | .subRegRev _ _ => (0xF00F, 0x8007)
  | .shiftLeft _ => (0xF00F, 0x800E)
  | .skipNeqReg _ _ => (0xF00F, 0x9000)
  | .setIndex _ => (0xF000, 0xA000)
  | .jumpOffset _ => (0xF000, 0xB000)
  | .randAnd _ _ => (0xF000, 0xC000)
  | .draw _ _ _ => (0xF000, 0xD000)
  | .skipKeyPressed _ => (0xF0FF, 0xE09E)
  | .skipKeyNotPressed _ => (0xF0FF, 0xE0A1)
  | .readDelay _ => (0xF0FF, 0xF007)
  | .awaitKey _ => (0xF0FF, 0xF00A)
  | .setDelay _ => (0xF0FF, 0xF015)
  | .setSound _ => (0xF0FF, 0xF018)
  | .addIndex _ => (0xF0FF, 0xF01E)
  | .fontAddress _ => (0xF0FF, 0xF029)
  | .bcd _ => (0xF0FF, 0xF033)
  | .storeRegs _ => (0xF0FF, 0xF055)
  | .loadRegs _ => (0xF0FF, 0xF065)
  | .reserved0NNN _ => (0xF000, 0x0000)

/-! ## The host's question -/

/-- The instruction the decoder reads from the table's word `w` of `nbits` bits: one word, high byte
at the lower address (R43), any bit above `nbits` zero. -/
def decodeTableWord (nbits w : Nat) : Option Instr :=
  let word : Word := BitVec.ofNat 16 (w % 2 ^ nbits)
  match decode [hiByte word, loByte word] with
  | .ok (i, _) => some i
  | .error _ => none

end Sys2Proof
end

