-- ==== Sys2Proof/Config.lean ====
section
/-!
DEFINITION. What the spec leaves to a parameter (spec/00_scope.md R5): the random source, the glyph
bytes, and the effect of a completing await-key on the keyboard latch.
-/

namespace Sys2Proof

/-- The glyph table FONT: 16 glyphs of 5 row bytes each, top row first (R46). -/
abbrev Font := Vector (Vector Byte 5) 16

/-- AWAIT_KEY_LATCH_EFFECT (R121): what a completing await-key does to the latch. -/
inductive LatchEffect where
  /-- The latch is not changed: the spec's default (R121, D7). -/
  | none
  /-- The flag of the key returned becomes false. -/
  | consumed
  /-- Every flag becomes false. -/
  | all
  deriving DecidableEq, Repr

/-- The parameters that a model takes as arguments besides the random source (R5 (b), (c)).
They are carried as constant data, so a statement about every state holds for every value of them
(DESIGN CHOICE, safe, notes/assumptions/2.md). -/
structure Params where
  /-- FONT, R5 (b). -/
  font : Font
  /-- AWAIT_KEY_LATCH_EFFECT, R5 (c). -/
  latchEffect : LatchEffect
  deriving DecidableEq, Repr

/-- The default glyph table of R46. -/
def Config.defaultFont : Font :=
  #v[#v[0xF0, 0x90, 0x90, 0x90, 0xF0], #v[0x20, 0x60, 0x20, 0x20, 0x70],
     #v[0xF0, 0x10, 0xF0, 0x80, 0xF0], #v[0xF0, 0x10, 0xF0, 0x10, 0xF0],
     #v[0x90, 0x90, 0xF0, 0x10, 0x10], #v[0xF0, 0x80, 0xF0, 0x10, 0xF0],
     #v[0xF0, 0x80, 0xF0, 0x90, 0xF0], #v[0xF0, 0x10, 0x20, 0x40, 0x40],
     #v[0xF0, 0x90, 0xF0, 0x90, 0xF0], #v[0xF0, 0x90, 0xF0, 0x10, 0xF0],
     #v[0xF0, 0x90, 0xF0, 0x90, 0x90], #v[0xE0, 0x90, 0xE0, 0x90, 0xE0],
     #v[0xF0, 0x80, 0x80, 0x80, 0xF0], #v[0xE0, 0x90, 0x90, 0x90, 0xE0],
     #v[0xF0, 0x80, 0xF0, 0x80, 0xF0], #v[0xF0, 0x80, 0xF0, 0x80, 0x80]]

/-- The parameters at their defaults (R46, R121). -/
def Config.defaultParams : Params := { font := Config.defaultFont, latchEffect := .none }

/-- FREE VALUE (R103, R5 (a), D17): the byte the random source RNG delivers at its `n`-th draw.
No law constrains it, so it has no body; safe, notes/assumptions/1.md. -/
opaque Config.randomByte : Nat → Byte

end Sys2Proof
end

