-- ==== Sys2Proof/Machine/State.lean ====
section
/-!
DEFINITION. The state of the machine (spec/10_state.md), the errors it returns to the host
(spec/60_exceptions.md R130 to R135), the reasons a step can stop, and the state after reset (R31).
-/

namespace Sys2Proof.Machine

/-- The control-unit mode (R24). -/
inductive Mode where
  /-- Normal fetch, decode and execute. -/
  | running
  /-- Blocked by an await-key whose destination is register `t`. -/
  | awaitingKey (t : Reg)
  deriving DecidableEq, Repr

/-- The cause tags of BoundsError (R132). -/
inductive BoundsCause where
  /-- The instruction fetch (R131). -/
  | fetch
  /-- A data read: draw, load-regs. -/
  | memRead
  /-- A data write: bcd, store-regs. -/
  | memWrite
  /-- A call with the stack full. -/
  | stackOverflow
  /-- A return with the stack empty. -/
  | stackUnderflow
  /-- A key index above 15: the key skips and the host's set_key. -/
  | keyIndex
  /-- Listed by R132 and raised by nothing: a 4-bit field cannot exceed 15 (R13, C10). -/
  | registerIndex
  deriving DecidableEq, Repr

/-- The errors an operation returns to the host (R130). -/
inductive MachineError where
  /-- The fetched word is no form; carries its four nibbles (R70, R133). -/
  | decodeError (n0 n1 n2 n3 : Nibble)
  /-- An access outside its range; carries the cause and the value of R132. -/
  | boundsError (cause : BoundsCause) (value : Nat)
  /-- The ROM is too long; carries its length (R135). -/
  | loadError (len : Nat)
  deriving DecidableEq, Repr

/-- Memory: (address, byte) pairs in the canonical form of `Memory.wf`. -/
abbrev Memory := List Host.Cell

/-- The framebuffer, 32 rows of 64 cells: row-major, cell `64 * py + px` at column `px` of row `py`
(R25). -/
abbrev Framebuffer := Vector (Vector Bool 64) 32

/-- The state of the machine (spec/10_state.md), and three fields of the model's own. -/
structure State where
  /-- MEM (R27, R40). -/
  mem : Memory
  /-- V0 to VF (R10). -/
  v : Vector Byte 16
  /-- I (R15). -/
  ireg : Word
  /-- PC (R16). -/
  pc : Word
  /-- SP, the number of stack entries in use (R19). -/
  sp : Byte
  /-- STACK (R19). -/
  stack : Vector Word 16
  /-- DT, the delay timer (R22). -/
  dt : Byte
  /-- ST, the sound timer (R22). -/
  st : Byte
  /-- MODE (R24). -/
  mode : Mode
  /-- FB (R25). -/
  fb : Framebuffer
  /-- KEY (R26). -/
  key : Vector Bool 16
  /-- The model's own: the parameters FONT and AWAIT_KEY_LATCH_EFFECT (R5), which nothing writes
  (notes/assumptions/2.md). -/
  params : Params
  /-- The model's own: how many bytes RNG has delivered (R103, notes/assumptions/1.md). -/
  draws : Nat
  /-- The model's own: the errors returned to the host since reset, newest first (R142,
  notes/assumptions/3.md). -/
  errors : List MachineError
  deriving DecidableEq, Repr

/-- Why a step stops without a next state. The errors of R130 are no faults of the model: each is an
ordinary return to the host, after which the machine goes on (R134, R142). -/
inductive Fault where
  /-- A return with SP above 16, a value R19 says SP never holds; STACK has no such entry.
  Raised by `State.pop` only; safe, and unreachable from reset (notes/assumptions/5.md). -/
  | stackPointerOutOfRange
  deriving DecidableEq, Repr

/-- Why a step refuses an instruction. -/
inductive Refusal where
  /-- The instruction has no meaning yet; raised by an arm of `exec` alone; safe. -/
  | notModelled (mnemonic : String)
  deriving DecidableEq, Repr

/-- What an operation answers. -/
abbrev Result := Host.Outcome State Fault Refusal

/-- The state after reset and after construction (R31, R160, R161). Memory lists nothing: an unlisted
address reads as its reset content. -/
def State.reset : State where
  mem := []
  v := Vector.replicate 16 0
  ireg := 0
  pc := 0x200
  sp := 0
  stack := Vector.replicate 16 0
  dt := 0
  st := 0
  mode := .running
  fb := Vector.replicate 32 (Vector.replicate 64 false)
  key := Vector.replicate 16 false
  params := Config.defaultParams
  draws := 0
  errors := []

end Sys2Proof.Machine
end

