-- ==== Sys2Proof/Machine/Ops.lean ====
section
/-!
DEFINITION. The shared operations over memory, registers, stack, display and latch (spec/10_state.md,
spec/20_memory.md), the instruction fetch, and returning an error to the host
(spec/60_exceptions.md R134).
-/

namespace Sys2Proof.Machine

/-! ## Memory cells (R40, R50) -/

/-- What an unlisted address reads as: its content after reset, the font table at 0 to 79 and 0
everywhere else (R31, R47; DEDUCED, notes/assumptions/11.md). -/
def Memory.unlisted (font : Font) (a : Nat) : Byte :=
  if h : a < fontSize then
    (font[a / 5]'(by have : fontSize = 80 := rfl; omega))[a % 5]'(Nat.mod_lt _ (by decide))
  else 0

/-- The byte at an address. -/
def Memory.read (font : Font) : Memory → Nat → Byte
  | [], a => Memory.unlisted font a
  | (b, u) :: m, a => if b = a then u else Memory.read font m a

/-- Memory with the byte at an address replaced, in canonical form. -/
def Memory.write (font : Font) : Memory → Nat → Byte → Memory
  | [], a, w => if w = Memory.unlisted font a then [] else [(a, w)]
  | (b, u) :: m, a, w =>
    if a < b then
      if w = Memory.unlisted font a then (b, u) :: m else (a, w) :: (b, u) :: m
    else if a = b then
      if w = Memory.unlisted font a then m else (a, w) :: m
    else (b, u) :: Memory.write font m a w

/-- The canonical form: addresses below 4096, strictly rising, and no entry equal to what the
unlisted address reads as. -/
def Memory.wf (font : Font) : Memory → Bool
  | [] => true
  | (a, w) :: m =>
    decide (a < memSize) && w != Memory.unlisted font a && m.all (fun c => decide (a < c.1)) &&
      Memory.wf font m

/-- `MEM[a]`. -/
def State.readByte (s : State) (a : Nat) : Byte := Memory.read s.params.font s.mem a

/-- `MEM[a] <- b`. -/
def State.writeByte (s : State) (a : Nat) (b : Byte) : State :=
  { s with mem := Memory.write s.params.font s.mem a b }

/-- `MEM[a], ..., MEM[a + n - 1]`. -/
def State.readBytes (s : State) (a n : Nat) : List Byte := (List.range n).map fun k => s.readByte (a + k)

/-- `MEM[a + k] <- bs[k]` for each byte, in ascending order. -/
def State.writeBytes (s : State) (a : Nat) : List Byte → State
  | [] => s
  | b :: bs => (s.writeByte a b).writeBytes (a + 1) bs

/-- The bounds test of R41 and R42, on unbounded naturals (R44): an access of no byte is in range. -/
def inBounds (a n : Nat) : Bool := n == 0 || decide (a + n ≤ memSize)

/-- `MemRead(a, n)` of R41. -/
def State.memRead (s : State) (cause : BoundsCause) (a n : Nat) : Except MachineError (List Byte) :=
  if inBounds a n then .ok (s.readBytes a n) else .error (.boundsError cause a)

/-- `MemWrite(a, n, bs)` of R42, `n` the length of `bs`: all the bytes or none (R49, R138). -/
def State.memWrite (s : State) (a : Nat) (bs : List Byte) : Except MachineError State :=
  if inBounds a bs.length then .ok (s.writeBytes a bs) else .error (.boundsError .memWrite a)

/-! ## Registers and control state (R10, R15, R16, R22, R24) -/

/-- `V[x] <- b`. -/
def State.setV (s : State) (x : Reg) (b : Byte) : State := { s with v := s.v.set x b }

/-- `I <- w`. -/
def State.setI (s : State) (w : Word) : State := { s with ireg := w }

/-- `pc <- w`. -/
def State.setPc (s : State) (w : Word) : State := { s with pc := w }

/-- PC moved on by one instruction width (R16, R60). It wraps at 16 bits, which R18 excludes
(notes/assumptions/6.md). -/
def State.advancePc (s : State) : State := s.setPc (s.pc + 2)

/-- PC put back by one instruction width (R120). -/
def State.rewindPc (s : State) : State := s.setPc (s.pc - 2)

/-- "Skip next instruction" if the condition holds: PC moves on by one more width (R84). -/
def State.skipIf (s : State) (c : Bool) : Result := .next (if c then s.advancePc else s)

/-- `DT <- b`. -/
def State.setDt (s : State) (b : Byte) : State := { s with dt := b }

/-- `ST <- b`. -/
def State.setSt (s : State) (b : Byte) : State := { s with st := b }

/-- `MODE <- m`. -/
def State.setMode (s : State) (m : Mode) : State := { s with mode := m }

/-- `FB <- f`. -/
def State.setFb (s : State) (f : Framebuffer) : State := { s with fb := f }

/-- `KEY[k] <- b`. -/
def State.setKey (s : State) (k : Reg) (b : Bool) : State := { s with key := s.key.set k b }

/-- `KEY[k] <- false` for every `k`. -/
def State.releaseAllKeys (s : State) : State := { s with key := Vector.replicate 16 false }

/-- `V[k] <- bs[k]` for `k` in `0 .. x`; registers above `x` keep their value. -/
def State.loadPrefix (s : State) (x : Reg) (bs : List Byte) : State :=
  { s with v := Vector.ofFn fun k => if k ≤ x then bs.getD k.val 0 else s.v[k] }

/-- `Rand()` of R103: one byte is drawn; the byte is a free value (notes/assumptions/1.md). -/
def State.rand (s : State) : Byte × State :=
  (Config.randomByte s.draws, { s with draws := s.draws + 1 })

/-! ## Errors (R130 to R138, R142) -/

/-- The record that an error was returned to the host (R142; DESIGN CHOICE of form,
notes/assumptions/3.md). -/
def State.recordError (s : State) (e : MachineError) : State := { s with errors := e :: s.errors }

/-- Taking an error: a return to the host (R134). No register is saved, no mode changes, PC is not
redirected and nothing is written, so the state left is the state given, in which PC is A for a
failed fetch (R136) and A + 2 otherwise (R137, R138). There is no return from an error (R142): any
operation may follow. -/
def State.takeError (s : State) (e : MachineError) : Result := .next (s.recordError e)

/-- DecodeError of an unknown word (R70, R133). -/
def decodeErrorOf (w : Word) : MachineError :=
  .decodeError (nibble0 w) (nibble1 w) (nibble2 w) (nibble3 w)

/-! ## The stack (R19 to R21) -/

/-- `Push(w)` of R20. -/
def State.push (s : State) (w : Word) : Except MachineError State :=
  if h : s.sp.toNat < stackDepth then
    .ok { s with stack := s.stack.set s.sp.toNat w h, sp := s.sp + 1 }
  else .error (.boundsError .stackOverflow s.sp.toNat)

/-- `Pop()` of R21, handing the popped value and the state to `k`. The entry keeps its value.
A value of SP above 16 names no entry (notes/assumptions/5.md). -/
def State.pop (s : State) (k : Word → State → Result) : Result :=
  if s.sp = 0 then s.takeError (.boundsError .stackUnderflow s.sp.toNat)
  else if h : s.sp.toNat - 1 < stackDepth then
    k (s.stack[s.sp.toNat - 1]'h) { s with sp := s.sp - 1 }
  else .fault .stackPointerOutOfRange

/-! ## The keyboard latch (R26, R120, R121) -/

/-- The key numbers in ascending order. -/
def allKeys : List Reg := [0, 1, 2, 3, 4, 5, 6, 7, 8, 9, 10, 11, 12, 13, 14, 15]

/-- The least `k` with `KEY[k] = true`, if there is one (R30, R120). -/
def State.lowestPressed (s : State) : Option Reg := allKeys.find? fun k => s.key[k]

/-- AWAIT_KEY_LATCH_EFFECT(k0) of R121. -/
def State.applyLatchEffect (s : State) (k0 : Reg) : State :=
  match s.params.latchEffect with
  | .none => s
  | .consumed => s.setKey k0 false
  | .all => s.releaseAllKeys

/-- The deferred register write of await-key and the latch effect (R30, R120). -/
def State.deliverKey (s : State) (t k0 : Reg) : State :=
  (s.setV t (BitVec.ofNat 8 k0.val)).applyLatchEffect k0

/-- A step taken in AwaitingKey mode (R30): nothing while no key is latched, else the register write,
the latch effect, `pc <- PC + 2` and Running, and nothing else. It neither fetches nor fails (R140). -/
def stepAwaiting (t : Reg) (s : State) : Result :=
  match s.lowestPressed with
  | some k0 => .next ((s.deliverKey t k0).advancePc.setMode .running)
  | none => .next s

/-! ## The framebuffer (R25) -/

/-- `FBxy(px, py)`. -/
def Framebuffer.cell (f : Framebuffer) (px : Fin 64) (py : Fin 32) : Bool := f[py][px]

/-- The cell at column `px` of row `py` replaced. -/
def Framebuffer.setCell (f : Framebuffer) (px : Fin 64) (py : Fin 32) (b : Bool) : Framebuffer :=
  f.set py (f[py].set px b)

/-- Column of cell `i`: `i mod 64` (R25). -/
def cellColumn (i : Fin 2048) : Fin 64 := Fin.ofNat 64 i.val

/-- Row of cell `i`: `i div 64` (R25). -/
def cellRow (i : Fin 2048) : Fin 32 := Fin.ofNat 32 (i.val / 64)

/-- `FB[i]` (R25). -/
def State.fbCell (s : State) (i : Fin 2048) : Bool := s.fb.cell (cellColumn i) (cellRow i)

/-- All cells false (R113). -/
def Framebuffer.blank : Framebuffer := Vector.replicate 32 (Vector.replicate 64 false)

/-! ## The instruction fetch (R45, R55) -/

/-- `MemRead(PC, 2)` as a big-endian word (R43, R45). -/
def State.fetchWord (s : State) : Except MachineError Word :=
  match s.memRead .fetch s.pc.toNat 2 with
  | .ok bs => .ok (beWord (bs.getD 0 0) (bs.getD 1 0))
  | .error e => .error e

/-- Where an instruction is placed for the next step: at PC, or at 0x200 where PC names no two-byte
fetch (R45). -/
def State.fetchAddress (s : State) : Word := if s.pc.toNat + 1 < memSize then s.pc else 0x200

/-- A word stored where the next step fetches, high byte first (R43), and the mode Running, so that the
next step does fetch (R30). -/
def State.placeWord (s : State) (w : Word) : State :=
  ((s.setMode .running).setPc s.fetchAddress).writeBytes s.fetchAddress.toNat [hiByte w, loByte w]

end Sys2Proof.Machine
end

