-- ==== Sys2Proof/Machine/Flags.lean ====
section
/-!
DEFINITION. The flag computations, all of them values of VF (spec/10_state.md R11, R14, R32;
spec/41_alu.md R96 to R102).
-/

namespace Sys2Proof.Machine

/-- The flag value 0 or 1 (R11). -/
def flagByte (f : Bool) : Byte := if f then 1 else 0

/-- Carry out of `a + b`: the unsigned sum is 256 or more (R96). -/
def carry (a b : Byte) : Bool := decide (256 ≤ a.toNat + b.toNat)

/-- No borrow in `a - b`: `a ≥ b` (R97, R99). -/
def noBorrow (a b : Byte) : Bool := decide (b.toNat ≤ a.toNat)

/-- Bit 0 of the value before a right shift (R98). -/
def shiftedOutRight (a : Byte) : Bool := decide (a.toNat % 2 = 1)

/-- Bit 7 of the value before a left shift (R100). -/
def shiftedOutLeft (a : Byte) : Bool := decide (128 ≤ a.toNat)

/-- `V[15] <- flag`. -/
def State.setFlag (s : State) (f : Bool) : State := s.setV vF (flagByte f)

/-- The result to `V[x]` first, the flag to VF last, so that with `x = 15` VF holds the flag and the
result is lost (R14 law (b), R102). -/
def State.setResultAndFlag (s : State) (x : Reg) (r : Byte) (f : Bool) : State :=
  (s.setV x r).setFlag f

end Sys2Proof.Machine
end

