-- ==== Sys2Proof/Machine/Operands.lean ====
section
/-!
DEFINITION. The operand forms and the arithmetic on them (spec/00_scope.md R6; spec/30_encoding.md
R62, R63; spec/41_alu.md R101; spec/42_index_memory.md R111; spec/43_display.md R114): each result is
computed on naturals and narrowed once.
-/

namespace Sys2Proof.Machine

/-- `zext_16(addr)` (R63). -/
def zextAddr (addr : Addr) : Word := BitVec.ofNat 16 addr.toNat

/-- The target of jump-offset, `zext_16(addr) + zext_16(V[0])`, not reduced (R83). -/
def offsetTarget (addr : Addr) (b : Byte) : Word := BitVec.ofNat 16 (addr.toNat + b.toNat)

/-- `(a + b) mod 256` (R91, R96). -/
def sum8 (a b : Byte) : Byte := BitVec.ofNat 8 (a.toNat + b.toNat)

/-- `(a - b) mod 256`, that is `(a + 256 - b) mod 256` (R97, R99). -/
def diff8 (a b : Byte) : Byte := BitVec.ofNat 8 (a.toNat + 256 - b.toNat)

/-- `a div 2` (R98). -/
def half8 (a : Byte) : Byte := BitVec.ofNat 8 (a.toNat / 2)

/-- `(2 * a) mod 256` (R100). -/
def double8 (a : Byte) : Byte := BitVec.ofNat 8 (2 * a.toNat)

/-- `(I + zext_16(b)) mod 65536` (R106). -/
def indexSum (i : Word) (b : Byte) : Word := BitVec.ofNat 16 (i.toNat + b.toNat)

/-- `5 * zext_16(b)`, at most 1275 (R107). -/
def glyphAddress (b : Byte) : Word := BitVec.ofNat 16 (5 * b.toNat)

/-- The base address I as a natural number (R44, R111). -/
def State.base (s : State) : Nat := s.ireg.toNat

/-- The decimal digits of a byte: hundreds, tens, ones (R108). -/
def bcdDigits (b : Byte) : List Byte :=
  [BitVec.ofNat 8 (b.toNat / 100), BitVec.ofNat 8 (b.toNat / 10 % 10), BitVec.ofNat 8 (b.toNat % 10)]

/-- `V[0], ..., V[x]` (R109). -/
def State.regPrefix (s : State) (x : Reg) : List Byte := s.v.toList.take (x.val + 1)

/-- `V[x]` as a key index: a BoundsError if it is above 15, with no reduction (R118, R119). -/
def State.keyOperand (s : State) (x : Reg) : Except MachineError Reg :=
  if h : s.v[x].toNat < 16 then .ok ⟨s.v[x].toNat, h⟩
  else .error (.boundsError .keyIndex s.v[x].toNat)

/-- A cell by its coordinates (R25). -/
abbrev Pixel := Fin 64 × Fin 32

/-- The cells under the 1 bits of one sprite row drawn at column `x0` of row `py`, leftmost first: bit
7 is column 0, and columns wrap (R114). -/
def rowPixels (x0 : Nat) (py : Fin 32) (b : Byte) : List Pixel :=
  ((List.range 8).filter fun c => b.getLsbD (7 - c)).map fun c => (Fin.ofNat 64 (x0 + c), py)

/-- The cells under the 1 bits of a sprite drawn at column `x0` and row `y0`, top row first; rows wrap
(R114). -/
def spritePixels (x0 : Nat) : Nat → List Byte → List Pixel
  | _, [] => []
  | y0, b :: bs => rowPixels x0 (Fin.ofNat 32 y0) b ++ spritePixels x0 (y0 + 1) bs

/-- One 1 bit of a sprite on a cell: the cell is toggled, and a cell that was true is a collision
(R114, R116). -/
def togglePixel (acc : Framebuffer × Bool) (p : Pixel) : Framebuffer × Bool :=
  (acc.1.setCell p.1 p.2 (!acc.1.cell p.1 p.2), acc.2 || acc.1.cell p.1 p.2)

/-- The framebuffer after a sprite and whether there was a collision (R114). -/
def blit (f : Framebuffer) (ps : List Pixel) : Framebuffer × Bool := ps.foldl togglePixel (f, false)

end Sys2Proof.Machine
end

