-- ==== Sys2Proof/Machine/Alu.lean ====
section
/-!
DEFINITION. Register and arithmetic instructions (spec/41_alu.md R90 to R103). All operand reads are
of the state on entry (R14); none of these writes PC, which is A + 2 on entry and after.
-/

namespace Sys2Proof.Machine

/-- set-imm(x, nn), R90. -/
def execSetImm (x : Reg) (nn : Byte) (s : State) : Result := .next (s.setV x nn)

/-- add-imm(x, nn), R91: no flag. -/
def execAddImm (x : Reg) (nn : Byte) (s : State) : Result := .next (s.setV x (sum8 s.v[x] nn))

/-- copy(x, y), R92. -/
def execCopy (x y : Reg) (s : State) : Result := .next (s.setV x s.v[y])

/-- or(x, y), R93: no flag. -/
def execOrReg (x y : Reg) (s : State) : Result := .next (s.setV x (s.v[x] ||| s.v[y]))

/-- and(x, y), R94: no flag. -/
def execAndReg (x y : Reg) (s : State) : Result := .next (s.setV x (s.v[x] &&& s.v[y]))

/-- xor(x, y), R95: no flag. -/
def execXorReg (x y : Reg) (s : State) : Result := .next (s.setV x (s.v[x] ^^^ s.v[y]))

/-- add-reg(x, y), R96. -/
def execAddReg (x y : Reg) (s : State) : Result :=
  .next (s.setResultAndFlag x (sum8 s.v[x] s.v[y]) (carry s.v[x] s.v[y]))

/-- sub-reg(x, y), R97. -/
def execSubReg (x y : Reg) (s : State) : Result :=
  .next (s.setResultAndFlag x (diff8 s.v[x] s.v[y]) (noBorrow s.v[x] s.v[y]))

/-- shift-right(x), R98. -/
def execShiftRight (x : Reg) (s : State) : Result :=
  .next (s.setResultAndFlag x (half8 s.v[x]) (shiftedOutRight s.v[x]))

/-- sub-reg-rev(x, y), R99. -/
def execSubRegRev (x y : Reg) (s : State) : Result :=
  .next (s.setResultAndFlag x (diff8 s.v[y] s.v[x]) (noBorrow s.v[y] s.v[x]))

/-- shift-left(x), R100. -/
def execShiftLeft (x : Reg) (s : State) : Result :=
  .next (s.setResultAndFlag x (double8 s.v[x]) (shiftedOutLeft s.v[x]))

/-- rand-and(x, nn), R103: a byte is drawn whatever `nn` is. -/
def execRandAnd (x : Reg) (nn : Byte) (s : State) : Result :=
  .next (s.rand.2.setV x (s.rand.1 &&& nn))

end Sys2Proof.Machine
end

