-- ==== Sys2Proof/Machine/Display.lean ====
section
/-!
DEFINITION. Display instructions (spec/43_display.md R113 to R116).
-/

namespace Sys2Proof.Machine

/-- clear-screen, R113. -/
def execClearScreen (s : State) : Result := .next (s.setFb Framebuffer.blank)

/-- The cells under the 1 bits of the sprite of draw(x, y, n), given its row bytes (R114). -/
def State.drawPixels (s : State) (x y : Reg) (rows : List Byte) : List Pixel :=
  spritePixels (s.v[x].toNat % 64) (s.v[y].toNat % 32) rows

/-- draw(x, y, n), R114: the coordinates and the sprite are read first, the range is checked before
any cell changes, VF is written last, also when `n = 0`. -/
def execDraw (x y : Reg) (n : Fin 16) (s : State) : Result :=
  match s.memRead .memRead s.base n.val with
  | .ok rows =>
    .next ((s.setFb (blit s.fb (s.drawPixels x y rows)).1).setFlag
      (blit s.fb (s.drawPixels x y rows)).2)
  | .error e => s.takeError e

end Sys2Proof.Machine
end

