-- ==== Sys2Proof/Machine/Flow.lean ====
section
/-!
DEFINITION. Control transfer: return, jump, call, jump-offset and the register skips
(spec/40_flow.md R80 to R88), and the reserved row 0NNN (spec/30_encoding.md R69).
On entry PC is A + 2 (R16).
-/

namespace Sys2Proof.Machine

/-- return, R80. -/
def execRet (s : State) : Result := s.pop fun t s' => .next (s'.setPc t)

/-- jump(addr), R81. -/
def execJump (addr : Addr) (s : State) : Result := .next (s.setPc (zextAddr addr))

/-- call(addr), R82: PC, which is A + 2, is pushed. -/
def execCall (addr : Addr) (s : State) : Result :=
  match s.push s.pc with
  | .ok s' => .next (s'.setPc (zextAddr addr))
  | .error e => s.takeError e

/-- jump-offset(addr), R83. -/
def execJumpOffset (addr : Addr) (s : State) : Result := .next (s.setPc (offsetTarget addr s.v[0]))

/-- skip-eq-imm(x, nn), R85. -/
def execSkipEqImm (x : Reg) (nn : Byte) (s : State) : Result := s.skipIf (s.v[x] == nn)

/-- skip-neq-imm(x, nn), R86. -/
def execSkipNeqImm (x : Reg) (nn : Byte) (s : State) : Result := s.skipIf (s.v[x] != nn)

/-- skip-eq-reg(x, y), R87. -/
def execSkipEqReg (x y : Reg) (s : State) : Result := s.skipIf (s.v[x] == s.v[y])

/-- skip-neq-reg(x, y), R88. -/
def execSkipNeqReg (x y : Reg) (s : State) : Result := s.skipIf (s.v[x] != s.v[y])

/-- The reserved row 0NNN, R69: DecodeError with the word's nibbles, and PC stays A + 2 (R137). -/
def execReserved0NNN (addr : Addr) (s : State) : Result :=
  s.takeError (decodeErrorOf (encodeAddr 0x0 addr))

end Sys2Proof.Machine
end

