-- ==== Sys2Proof/Machine/IndexMemory.lean ====
section
/-!
DEFINITION. Index register and memory instructions (spec/42_index_memory.md R105 to R111). None of
them writes PC, VF as a flag, or, but for the first three, I.
-/

namespace Sys2Proof.Machine

/-- Storing bytes at I, all of them or none (R108, R109, R138). -/
def State.storeAtIndex (s : State) (bs : List Byte) : Result :=
  match s.memWrite s.base bs with
  | .ok s' => .next s'
  | .error e => s.takeError e

/-- set-index(addr), R105. -/
def execSetIndex (addr : Addr) (s : State) : Result := .next (s.setI (zextAddr addr))

/-- add-index(x), R106: no flag. -/
def execAddIndex (x : Reg) (s : State) : Result := .next (s.setI (indexSum s.ireg s.v[x]))

/-- font-address(x), R107: no masking of `V[x]`. -/
def execFontAddress (x : Reg) (s : State) : Result := .next (s.setI (glyphAddress s.v[x]))

/-- bcd(x), R108. -/
def execBcd (x : Reg) (s : State) : Result := s.storeAtIndex (bcdDigits s.v[x])

/-- store-regs(x), R109: V0 to Vx inclusive. -/
def execStoreRegs (x : Reg) (s : State) : Result := s.storeAtIndex (s.regPrefix x)

/-- load-regs(x), R110: V0 to Vx inclusive. -/
def execLoadRegs (x : Reg) (s : State) : Result :=
  match s.memRead .memRead s.base (x.val + 1) with
  | .ok bs => .next (s.loadPrefix x bs)
  | .error e => s.takeError e

end Sys2Proof.Machine
end

