-- ==== Sys2Proof/Machine/KeyboardTimers.lean ====
section
/-!
DEFINITION. Keyboard and timer instructions (spec/44_keyboard_timers.md R118 to R124).
-/

namespace Sys2Proof.Machine

/-- skip-key-pressed(x), R118. -/
def execSkipKeyPressed (x : Reg) (s : State) : Result :=
  match s.keyOperand x with
  | .ok k => s.skipIf s.key[k]
  | .error e => s.takeError e

/-- skip-key-not-pressed(x), R119. -/
def execSkipKeyNotPressed (x : Reg) (s : State) : Result :=
  match s.keyOperand x with
  | .ok k => s.skipIf (!s.key[k])
  | .error e => s.takeError e

/-- await-key(x), R120: with a key latched it completes at once; with none PC goes back to A and the
mode records the destination. -/
def execAwaitKey (x : Reg) (s : State) : Result :=
  match s.lowestPressed with
  | some k0 => .next (s.deliverKey x k0)
  | none => .next (s.rewindPc.setMode (.awaitingKey x))

/-- read-delay(x), R122. -/
def execReadDelay (x : Reg) (s : State) : Result := .next (s.setV x s.dt)

/-- set-delay(x), R123. -/
def execSetDelay (x : Reg) (s : State) : Result := .next (s.setDt s.v[x])

/-- set-sound(x), R124. -/
def execSetSound (x : Reg) (s : State) : Result := .next (s.setSt s.v[x])

end Sys2Proof.Machine
end

