-- ==== Sys2Proof/Machine/Step.lean ====
section
/-!
DEFINITION. The engine's one operation, `step` (spec/10_state.md R30), and the host's way to place an
instruction for it.
-/

namespace Sys2Proof.Machine

/-- `step()` of R30, with the checks in the order of R140: in AwaitingKey mode nothing is fetched and
nothing fails; else fetch (PC stays A if that fails), advance PC to A + 2, decode, execute. -/
def step (s : State) : Host.Outcome State Fault Refusal :=
  match s.mode with
  | .awaitingKey t => stepAwaiting t s
  | .running =>
    match s.fetchWord with
    | .error e => s.takeError e
    | .ok w =>
      match decodeWord w with
      | .error _ => s.advancePc.takeError (decodeErrorOf w)
      | .ok i => exec i s.advancePc

/-- The table's word stored where the next step fetches, high byte first (R43), with the mode Running
so that the next step does fetch. It stands for the host's load (notes/assumptions/9.md). -/
def State.withFetchWord (s : State) (nbits w : Nat) : State :=
  s.placeWord (BitVec.ofNat 16 (w % 2 ^ nbits))

end Sys2Proof.Machine
end

