-- ==== Sys2Proof/Machine/HostOps.lean ====
section
/-!
DEFINITION. The host's operations besides `step` (spec/60_exceptions.md R144 to R150;
spec/70_reset_and_hazards.md R160 to R163). Each is atomic and works in either mode (R152).
-/

namespace Sys2Proof.Machine

/-- A timer after one tick: down by 1 when nonzero, floor at 0 (R22, R145). -/
def tickDown (t : Byte) : Byte := if t = 0 then 0 else t - 1

/-- `tick_timers()`, R145. -/
def State.tickTimers (s : State) : State := (s.setDt (tickDown s.dt)).setSt (tickDown s.st)

/-- `set_key(code, pressed)`, R146: a code above 15 is a BoundsError and no flag changes. -/
def State.hostSetKey (s : State) (code : Nat) (pressed : Bool) : State :=
  if h : code < 16 then s.setKey ⟨code, h⟩ pressed
  else s.recordError (.boundsError .keyIndex code)

/-- `clear_keys()`, R147. -/
def State.clearKeys (s : State) : State := s.releaseAllKeys

/-- `reset()`, R160: the state of R31. The parameters are constant and the random source is not reset
(R160); the error record of the model starts anew with the run (notes/assumptions/3.md). -/
def State.hostReset (s : State) : State := { State.reset with params := s.params, draws := s.draws }

/-- `load(rom)`, R162 and R163: the bytes at 0x200 and nothing else, or LoadError and nothing. -/
def State.load (s : State) (rom : List Byte) : State :=
  if rom.length ≤ progMax then s.writeBytes progBase rom
  else s.recordError (.loadError rom.length)

/-! ## Observations (R150): read-only and never failing -/

/-- A framebuffer cell, R150 (a). -/
def State.observeCell (s : State) (i : Fin 2048) : Bool := s.fbCell i

/-- The index to coordinate mapping, R150 (a). -/
def observeCoord (i : Fin 2048) : Fin 64 × Fin 32 := (cellColumn i, cellRow i)

/-- The sound timer, R150 (b). -/
def State.observeSound (s : State) : Byte := s.st

/-- The control-unit mode, R150 (c). -/
def State.observeMode (s : State) : Mode := s.mode

end Sys2Proof.Machine
end

