-- ==== Sys2Proof/Machine/Schedule.lean ====
section
/-!
DEFINITION. The operations the host invokes, one at a time and in any order (spec/00_scope.md R3;
spec/60_exceptions.md R144, R156). A schedule is a free input
(notes/assumptions/4.md).
-/

namespace Sys2Proof.Machine

/-- The operations of R144 that can change the state. -/
inductive Operation where
  /-- `step()`, R30. -/
  | step
  /-- `tick_timers()`, R145. -/
  | tickTimers
  /-- `set_key(code, pressed)`, R146. -/
  | setKey (code : Nat) (pressed : Bool)
  /-- `clear_keys()`, R147. -/
  | clearKeys
  /-- `reset()`, R160. -/
  | reset
  /-- `load(rom)`, R162. -/
  | load (rom : List Byte)
  deriving DecidableEq, Repr

/-- One operation, applied atomically (R3, R144). -/
def perform (o : Operation) (s : State) : Result :=
  match o with
  | .step => step s
  | .tickTimers => .next s.tickTimers
  | .setKey code pressed => .next (s.hostSetKey code pressed)
  | .clearKeys => .next s.clearKeys
  | .reset => .next s.hostReset
  | .load rom => .next (s.load rom)

/-- A schedule of operations, each beginning after the one before has returned (R3). -/
def runOps : List Operation → State → Result
  | [], s => .next s
  | o :: os, s =>
    match perform o s with
    | .next s' => runOps os s'
    | .fault r => .fault r
    | .refused r => .refused r

end Sys2Proof.Machine
end

