-- ==== Sys2Proof/Safety.lean ====
section
/-!
DEFINITION. The terms claims are stated in: a run without error (spec/60_exceptions.md R142), a
finished program (spec/70_reset_and_hazards.md R174), the invariant of the machine, what a claim says
an instruction leaves unchanged, and the state after reset as spec/10_state.md R31 lists it.
-/

namespace Sys2Proof.Machine

/-! ## Runs -/

/-- "No error returned so far", the premise R142 asks of claims about a run. -/
abbrev State.NoErrorYet (s : State) : Prop := s.errors = []

/-- Finished in the sense of R174: Running, PC = A, and the word at A is jump(A). -/
abbrev State.Parked (s : State) (addr : Addr) : Prop :=
  s.mode = .running ∧ s.pc.toNat = addr.toNat ∧ s.fetchWord = .ok (encode (.jump addr))

/-- What every operation keeps: memory in canonical form, SP 0 to 16 (R19), PC at most 0x10FE (R18),
each stack entry in use a pushed A + 2 (R80), and during a wait PC at the await-key instruction,
where a fetch was possible (R24). -/
structure State.Inv (s : State) : Prop where
  /-- The canonical form of memory. -/
  memory : Memory.wf s.params.font s.mem = true
  /-- R19. -/
  stackPointer : s.sp.toNat ≤ 16
  /-- R18. -/
  programCounter : s.pc.toNat ≤ 0x10FE
  /-- R80. -/
  returnAddresses : ∀ k : Fin 16, k.val < s.sp.toNat → 2 ≤ s.stack[k].toNat ∧ s.stack[k].toNat ≤ 4096
  /-- R24. -/
  waiting : s.mode ≠ .running → s.pc.toNat ≤ 4094

/-- The outcome is a next state that meets `P`. -/
def AnswersNext (r : Result) (P : State → Prop) : Prop := ∃ t, r = .next t ∧ P t

/-! ## What is left unchanged -/

/-- Every byte of memory reads as before. -/
def State.SameMemory (s t : State) : Prop := ∀ a, t.readByte a = s.readByte a

/-- Nothing but V has changed. -/
def State.OnlyV (s t : State) : Prop := t = { s with v := t.v } ∧ s.SameMemory t

/-- `V[x]` holds `b` and nothing else has changed. -/
def State.OnlyVx (s : State) (x : Reg) (b : Byte) (t : State) : Prop :=
  t.v[x] = b ∧ (∀ k : Reg, k ≠ x → t.v[k] = s.v[k]) ∧ s.OnlyV t

/-- The three cases of R102: VF holds the flag, `V[x]` the result unless `x = 15`, and nothing else
has changed. -/
def State.ResultAndFlag (s : State) (x : Reg) (r : Nat) (f : Bool) (t : State) : Prop :=
  (x ≠ vF → t.v[x].toNat = r) ∧ t.v[vF].toNat = f.toNat ∧
    (∀ k : Reg, k ≠ x → k ≠ vF → t.v[k] = s.v[k]) ∧ s.OnlyV t

/-- Nothing has changed but the memory bytes from `a` on, which hold `bs`. -/
def State.OnlyBytes (s : State) (a : Nat) (bs : List Byte) (t : State) : Prop :=
  (∀ k, k < bs.length → t.readByte (a + k) = bs.getD k 0) ∧
    (∀ c, c < a ∨ a + bs.length ≤ c → t.readByte c = s.readByte c) ∧
    t = { s with mem := t.mem }

/-- The byte at `c` once `bs` has been stored from `a` on: the stored byte in the stored range, and the
byte there before outside it. -/
def State.byteAfterStore (s : State) (a : Nat) (bs : List Byte) (c : Nat) : Byte :=
  if a ≤ c ∧ c < a + bs.length then bs.getD (c - a) 0 else s.readByte c

/-- The big-endian word at PC (R43) once `bs` has been stored from `a` on. -/
def State.wordAfterStore (s : State) (a : Nat) (bs : List Byte) : Word :=
  beWord (s.byteAfterStore a bs s.pc.toNat) (s.byteAfterStore a bs (s.pc.toNat + 1))

end Sys2Proof.Machine

namespace Sys2Proof

/-- The registers an instruction writes (R12; its columns Vx and VF, and the range of load-regs). -/
def Instr.writesV (i : Instr) (k : Reg) : Bool :=
  match i with
  | .setImm x _ | .addImm x _ | .copy x _ | .orReg x _ | .andReg x _ | .xorReg x _ | .randAnd x _
  | .readDelay x | .awaitKey x => k == x
  | .addReg x _ | .subReg x _ | .subRegRev x _ | .shiftRight x | .shiftLeft x => k == x || k == vF
  | .draw _ _ _ => k == vF
  | .loadRegs x => decide (k ≤ x)
  | .clearScreen | .ret | .jump _ | .call _ | .skipEqImm _ _ | .skipNeqImm _ _ | .skipEqReg _ _
  | .skipNeqReg _ _ | .setIndex _ | .jumpOffset _ | .skipKeyPressed _ | .skipKeyNotPressed _
  | .setDelay _ | .setSound _ | .addIndex _ | .fontAddress _ | .bcd _ | .storeRegs _
  | .reserved0NNN _ => false

end Sys2Proof

namespace Sys2Proof.Machine

/-! ## The display -/

/-- A 1 bit of the sprite of draw(x, y, n) falls on the cell at column `px` of row `py` (R114): bit
`7 - c` of the byte at I + r, at column (V[x] mod 64 + c) mod 64 and row (V[y] mod 32 + r) mod 32. -/
def State.SpriteBit (s : State) (x y : Reg) (n : Fin 16) (px : Fin 64) (py : Fin 32) : Prop :=
  ∃ r c : Nat, r < n.val ∧ c < 8 ∧
    (s.readByte (s.ireg.toNat + r)).getLsbD (7 - c) = true ∧
    px.val = (s.v[x].toNat % 64 + c) % 64 ∧ py.val = (s.v[y].toNat % 32 + r) % 32

/-! ## The latch -/

/-- `k0` is the least key latched (R30, R120). -/
def State.LeastPressed (s : State) (k0 : Reg) : Prop :=
  s.key[k0] = true ∧ ∀ j : Reg, j < k0 → s.key[j] = false

/-- The flag of key `k` after AWAIT_KEY_LATCH_EFFECT(k0) (R121). -/
def State.keyAfterEffect (s : State) (k0 k : Reg) : Bool :=
  match s.params.latchEffect with
  | .none => s.key[k]
  | .consumed => if k = k0 then false else s.key[k]
  | .all => false

/-! ## Reset -/

/-- The table of R31, item by item. -/
structure State.IsReset (s : State) : Prop where
  /-- MEM[0..79] = FONT. -/
  font : ∀ (g : Fin 16) (r : Fin 5), s.readByte (5 * g.val + r.val) = s.params.font[g][r]
  /-- MEM[80..4095] = 0. -/
  zero : ∀ a, 80 ≤ a → a < 4096 → s.readByte a = 0
  /-- V[0..15] = 0. -/
  v : ∀ k : Reg, s.v[k] = 0
  /-- I = 0. -/
  ireg : s.ireg = 0
  /-- PC = 0x200. -/
  pc : s.pc = 0x200
  /-- SP = 0. -/
  sp : s.sp = 0
  /-- STACK[0..15] = 0. -/
  stack : ∀ k : Fin 16, s.stack[k] = 0
  /-- DT = 0. -/
  dt : s.dt = 0
  /-- ST = 0. -/
  st : s.st = 0
  /-- MODE = Running. -/
  mode : s.mode = .running
  /-- FB[0..2047] = false. -/
  fb : ∀ i : Fin 2048, s.fbCell i = false
  /-- KEY[0..15] = false. -/
  key : ∀ k : Reg, s.key[k] = false

end Sys2Proof.Machine
end

