-- ==== Sys2Proof/Certificates/Slice0/Obligations.lean ====
section
/-!
DEFINITION. The statements about the machine, each from the rules of spec/ that its docstring names.
"On entry" is the state `exec` is given, in which PC is A + 2 (spec/00_scope.md R8). "Returns an error"
is a next state with that error recorded (spec/60_exceptions.md R134, R142; notes/assumptions/3.md).
-/

open Sys2Proof Sys2Proof.Machine

/-! ## The step cycle -/

/-- R30: a running step on two bytes that decode runs the decoded instruction with PC moved past them. -/
def Obligations.StepRunsDecodedInstruction : Prop :=
  ∀ (s : State) (i : Instr), s.mode = .running → s.pc.toNat ≤ 4094 →
    decodeWord (beWord (s.readByte s.pc.toNat) (s.readByte (s.pc.toNat + 1))) = .ok i →
    step s = exec i { s with pc := s.pc + 2 }

/-- R131, R136: with PC at 4095 or above a running step returns BoundsError(Fetch, PC), nothing else has
changed, and a further step returns the same error again. -/
def Obligations.FetchOutOfRangeChangesNothing : Prop :=
  ∀ (s : State) (e : MachineError), s.mode = .running → 4095 ≤ s.pc.toNat →
    e = .boundsError .fetch s.pc.toNat →
    step s = .next { s with errors := e :: s.errors } ∧
      step { s with errors := e :: s.errors } = .next { s with errors := e :: e :: s.errors }

/-- R70, R137: a fetched word that is no form returns DecodeError with its four nibbles, most
significant first, PC is A + 2, and nothing else has changed. -/
def Obligations.UndecodableWordReturnsDecodeError : Prop :=
  ∀ (s : State) (w : Word) (f : DecodeFailure), s.mode = .running → s.pc.toNat ≤ 4094 →
    w = beWord (s.readByte s.pc.toNat) (s.readByte (s.pc.toNat + 1)) → decodeForm w = .error f →
    step s = .next { s with
      pc := s.pc + 2
      errors := .decodeError (w.extractLsb' 12 4) (w.extractLsb' 8 4) (w.extractLsb' 4 4)
        (w.extractLsb' 0 4) :: s.errors }

/-- R30, R120, R121, R151: a step taken in AwaitingKey(t) changes nothing while no key is latched; with
`k0` the least key latched it writes V[t], applies the latch effect, moves PC past the await-key
instruction, returns to Running, and does nothing else. -/
def Obligations.WaitingStepDeliversLowestKey : Prop :=
  ∀ (s : State) (t : Reg), s.mode = .awaitingKey t →
    ((∀ k : Reg, s.key[k] = false) → step s = .next s) ∧
      ∀ k0 : Reg, s.LeastPressed k0 → AnswersNext (step s) fun u =>
        u.v = s.v.set t (BitVec.ofNat 8 k0.val) ∧ (∀ k : Reg, u.key[k] = s.keyAfterEffect k0 k) ∧
          u = { s with v := u.v, key := u.key, pc := s.pc + 2, mode := .running } ∧ s.SameMemory u

/-- R136, R137, R138: a step that returns an error leaves everything but PC as it was; PC is A after a
failed fetch, which happens at PC 4095 and above, and A + 2 otherwise; only a running step returns one. -/
def Obligations.ErrorsLeaveEverythingButPc : Prop :=
  ∀ s t : State, step s = .next t →
    t.errors = s.errors ∨ ∃ e, s.mode = .running ∧
      ((4095 ≤ s.pc.toNat ∧ e = .boundsError .fetch s.pc.toNat ∧
          t = { s with errors := e :: s.errors }) ∨
        (s.pc.toNat ≤ 4094 ∧ (∀ v, e ≠ .boundsError .fetch v) ∧
          t = { s with pc := s.pc + 2, errors := e :: s.errors }))

/-- R142: an error is not sticky; what has been returned before has no effect on a step but on the
record of errors itself. -/
def Obligations.EarlierErrorsDoNotChangeExecution : Prop :=
  ∀ (s t : State) (es : List MachineError), step s = .next t →
    ∃ new, t.errors = new ++ s.errors ∧
      step { s with errors := es } = .next { t with errors := new ++ es }

/-! ## Encoding -/

/-- R66, R67: words written out from the opcode map decode to the instructions they stand for. -/
def Obligations.SampleWordsDecode : Prop :=
  decodeWord 0x6005 = .ok (.setImm 0 0x05) ∧ decodeWord 0x6103 = .ok (.setImm 1 0x03) ∧
    decodeWord 0x8014 = .ok (.addReg 0 1) ∧ decodeWord 0x00E0 = .ok .clearScreen ∧
    decodeWord 0x2FFF = .ok (.call 0xFFF) ∧ decodeWord 0x3A7F = .ok (.skipEqImm 10 0x7F) ∧
    decodeWord 0xA123 = .ok (.setIndex 0x123) ∧ decodeWord 0xD12F = .ok (.draw 1 2 15) ∧
    decodeWord 0xE1A1 = .ok (.skipKeyNotPressed 1) ∧ decodeWord 0xF10A = .ok (.awaitKey 1) ∧
    decodeWord 0xF165 = .ok (.loadRegs 1) ∧ decodeForm 0xFFFF = .error (.unknownWord 15 15 15 15)

/-- R64, R66: the decoder reads back every well-formed instruction from its word and from its bytes,
with every operand at every value. -/
def Obligations.DecodeOfEncodeIsIdentity : Prop :=
  ∀ (i : Instr) (rest : List Byte), i.wellFormed = true →
    decodeWord (encode i) = .ok i ∧ decode (encodeBytes i ++ rest) = .ok (i, rest)

/-- R66: a decoded word matches its row, a word that is no form matches none of the 34 rows, and no
word matches two different ones. -/
def Obligations.DecoderAgreesWithOpcodeMap : Prop :=
  (∀ (w : Word) (i : Instr), decodeForm w = .ok i →
      (∀ addr, i ≠ .reserved0NNN addr) ∧ i.wellFormed = true ∧ w &&& i.opcodeRow.1 = i.opcodeRow.2) ∧
    (∀ (w : Word) (f : DecodeFailure), decodeForm w = .error f →
      ∀ i : Instr, (∀ addr, i ≠ .reserved0NNN addr) → w &&& i.opcodeRow.1 ≠ i.opcodeRow.2) ∧
    ∀ (w : Word) (i j : Instr), (∀ addr, i ≠ .reserved0NNN addr) → (∀ addr, j ≠ .reserved0NNN addr) →
      w &&& i.opcodeRow.1 = i.opcodeRow.2 → w &&& j.opcodeRow.1 = j.opcodeRow.2 →
      i.opcodeRow = j.opcodeRow

/-- R68: the words that fail to decode are exactly those of the table, and the failure carries the four
nibbles. -/
def Obligations.FailingWordsAreThoseListed : Prop :=
  ∀ w : Word,
    (decodeForm w = .error (.unknownWord (nibble0 w) (nibble1 w) (nibble2 w) (nibble3 w)) ↔
      (nibble0 w = 0x0 ∧ w ≠ 0x00E0 ∧ w ≠ 0x00EE) ∨
      (nibble0 w = 0x5 ∧ nibble3 w ≠ 0) ∨
      (nibble0 w = 0x8 ∧ nibble3 w ∈ [0x8, 0x9, 0xA, 0xB, 0xC, 0xD, 0xF]) ∨
      (nibble0 w = 0x9 ∧ nibble3 w ≠ 0) ∨
      (nibble0 w = 0xE ∧ fieldNN w ∉ [0x9E, 0xA1]) ∨
      (nibble0 w = 0xF ∧
        fieldNN w ∉ [0x07, 0x0A, 0x15, 0x18, 0x1E, 0x29, 0x33, 0x55, 0x65])) ∧
    ((∃ i, decodeForm w = .ok i) ∨
      decodeForm w = .error (.unknownWord (nibble0 w) (nibble1 w) (nibble2 w) (nibble3 w)))

/-- A word 0NNN other than 00E0 and 00EE decodes to the constructor of the reserved row: this clause is
the model's choice of form (DESIGN CHOICE, notes/assumptions/10.md), where R64 and R69 say that such a word
fails to decode. The meaning of that constructor returns the DecodeError(0, n1, n2, n3) of R69; nothing
else has changed, and PC stays A + 2 (R137). -/
def Obligations.ReservedRowReturnsDecodeError : Prop :=
  (∀ w : Word, nibble0 w = 0 → w ≠ 0x00E0 → w ≠ 0x00EE →
      decodeWord w = .ok (.reserved0NNN (fieldAddr w))) ∧
    ∀ (addr : Addr) (s : State), exec (.reserved0NNN addr) s = .next { s with
      errors := .decodeError 0 (addr.extractLsb' 8 4) (addr.extractLsb' 4 4) (addr.extractLsb' 0 4) ::
        s.errors }

/-- The host's placing of an instruction: the next step fetches exactly the word placed, in Running
mode. The model's own operation (notes/assumptions/9.md). -/
def Obligations.PlacedWordIsFetched : Prop :=
  ∀ (s : State) (w : Nat), Memory.wf s.params.font s.mem = true → w < 65536 →
    (s.withFetchWord 16 w).mode = .running ∧
      (s.withFetchWord 16 w).fetchWord = .ok (BitVec.ofNat 16 w)

/-! ## Control transfer -/

/-- R81: jump(addr) sets PC to addr, zero-extended, and nothing else. -/
def Obligations.JumpSetsPc : Prop :=
  ∀ (addr : Addr) (s : State), exec (.jump addr) s = .next { s with pc := addr.setWidth 16 }

/-- R20, R82: call(addr) pushes PC and jumps; with SP at 16 or above it returns
BoundsError(StackOverflow, SP) and changes nothing. -/
def Obligations.CallPushesPcAndJumps : Prop :=
  ∀ (addr : Addr) (s : State),
    (∀ h : s.sp.toNat < 16, exec (.call addr) s = .next { s with
      stack := s.stack.set s.sp.toNat s.pc h
      sp := s.sp + 1
      pc := addr.setWidth 16 }) ∧
    (16 ≤ s.sp.toNat → exec (.call addr) s = .next { s with
      errors := .boundsError .stackOverflow s.sp.toNat :: s.errors })

/-- R21, R80: return pops the address and keeps the entry; with SP = 0 it returns
BoundsError(StackUnderflow, 0) and changes nothing. -/
def Obligations.ReturnPopsPc : Prop :=
  ∀ s : State,
    (∀ (_ : 1 ≤ s.sp.toNat) (h : s.sp.toNat - 1 < 16), exec .ret s = .next { s with
      pc := s.stack[s.sp.toNat - 1]'h
      sp := s.sp - 1 }) ∧
    (s.sp = 0 → exec .ret s = .next { s with
      errors := .boundsError .stackUnderflow 0 :: s.errors })

/-- R80, R82: a return right after a call comes back to the instruction after the call with SP as
before. -/
def Obligations.ReturnUndoesCall : Prop :=
  ∀ (addr : Addr) (s : State), s.sp.toNat < 16 →
    AnswersNext (exec (.call addr) s) fun t => ∀ pc' : Word,
      AnswersNext (exec .ret { t with pc := pc' }) fun u =>
        u.pc = s.pc ∧ u.sp = s.sp ∧ u = { s with stack := u.stack } ∧
          ∀ k : Fin 16, k.val ≠ s.sp.toNat → u.stack[k] = s.stack[k]

/-- R83: jump-offset(addr) sets PC to addr + V[0], not reduced modulo 4096. -/
def Obligations.JumpOffsetAddsV0 : Prop :=
  ∀ (addr : Addr) (s : State), AnswersNext (exec (.jumpOffset addr) s) fun t =>
    t.pc.toNat = addr.toNat + s.v[(0 : Reg)].toNat ∧ t = { s with pc := t.pc } ∧ s.SameMemory t

/-- R84, R85 to R88: the register skips add 2 to PC if their condition holds and else change nothing. -/
def Obligations.RegisterSkipsMovePc : Prop :=
  ∀ (x y : Reg) (nn : Byte) (s : State),
    exec (.skipEqImm x nn) s = .next { s with pc := if s.v[x] = nn then s.pc + 2 else s.pc } ∧
    exec (.skipNeqImm x nn) s = .next { s with pc := if s.v[x] ≠ nn then s.pc + 2 else s.pc } ∧
    exec (.skipEqReg x y) s = .next { s with pc := if s.v[x] = s.v[y] then s.pc + 2 else s.pc } ∧
    exec (.skipNeqReg x y) s = .next { s with pc := if s.v[x] ≠ s.v[y] then s.pc + 2 else s.pc }

/-- R174, R81: a parked program stays parked: a step leaves the state as it was. -/
def Obligations.ParkedProgramStays : Prop :=
  ∀ (s : State) (addr : Addr), s.Parked addr → step s = .next s

/-! ## Registers and arithmetic -/

/-- R90: set-imm(x, nn) makes V[x] equal nn and changes nothing else. -/
def Obligations.SetImmWritesImmediate : Prop :=
  ∀ (x : Reg) (nn : Byte) (s : State),
    AnswersNext (exec (.setImm x nn) s) fun t => s.OnlyVx x nn t

/-- R91: add-imm(x, nn) wraps modulo 256 and writes no flag: VF changes only as the destination. -/
def Obligations.AddImmWrapsWithoutFlag : Prop :=
  ∀ (x : Reg) (nn : Byte) (s : State), AnswersNext (exec (.addImm x nn) s) fun t =>
    t.v[x].toNat = (s.v[x].toNat + nn.toNat) % 256 ∧ (∀ k : Reg, k ≠ x → t.v[k] = s.v[k]) ∧ s.OnlyV t

/-- R92: copy(x, y) makes V[x] the value of V[y] and changes nothing else. -/
def Obligations.CopyWritesVy : Prop :=
  ∀ (x y : Reg) (s : State), AnswersNext (exec (.copy x y) s) fun t => s.OnlyVx x s.v[y] t

/-- R93, R94, R95: or, and, xor combine V[x] and V[y] bitwise into V[x] and change nothing else, VF
included unless it is the destination. -/
def Obligations.LogicIsBitwiseWithoutFlag : Prop :=
  ∀ (x y : Reg) (s : State),
    (AnswersNext (exec (.orReg x y) s) fun t =>
      (∀ b, b < 8 → t.v[x].getLsbD b = (s.v[x].getLsbD b || s.v[y].getLsbD b)) ∧
        (∀ k : Reg, k ≠ x → t.v[k] = s.v[k]) ∧ s.OnlyV t) ∧
    (AnswersNext (exec (.andReg x y) s) fun t =>
      (∀ b, b < 8 → t.v[x].getLsbD b = (s.v[x].getLsbD b && s.v[y].getLsbD b)) ∧
        (∀ k : Reg, k ≠ x → t.v[k] = s.v[k]) ∧ s.OnlyV t) ∧
    (AnswersNext (exec (.xorReg x y) s) fun t =>
      (∀ b, b < 8 → t.v[x].getLsbD b = (s.v[x].getLsbD b ^^ s.v[y].getLsbD b)) ∧
        (∀ k : Reg, k ≠ x → t.v[k] = s.v[k]) ∧ s.OnlyV t)

/-- R96: add-reg writes the sum modulo 256 and, last, the carry: 1 iff the sum is 256 or more. -/
def Obligations.AddRegWritesSumAndCarry : Prop :=
  ∀ (x y : Reg) (s : State), AnswersNext (exec (.addReg x y) s) fun t =>
    s.ResultAndFlag x ((s.v[x].toNat + s.v[y].toNat) % 256)
      (decide (s.v[x].toNat + s.v[y].toNat ≥ 256)) t

/-- R97: sub-reg writes V[x] - V[y] modulo 256 and, last, 1 iff V[x] ≥ V[y] before. -/
def Obligations.SubRegWritesDifferenceAndNoBorrow : Prop :=
  ∀ (x y : Reg) (s : State), AnswersNext (exec (.subReg x y) s) fun t =>
    s.ResultAndFlag x ((s.v[x].toNat + 256 - s.v[y].toNat) % 256)
      (decide (s.v[x].toNat ≥ s.v[y].toNat)) t

/-- R98: shift-right writes V[x] div 2 and, last, bit 0 of the old V[x]. -/
def Obligations.ShiftRightWritesHalfAndBitZero : Prop :=
  ∀ (x : Reg) (s : State), AnswersNext (exec (.shiftRight x) s) fun t =>
    s.ResultAndFlag x (s.v[x].toNat / 2) (s.v[x].getLsbD 0) t

/-- R99: sub-reg-rev writes V[y] - V[x] modulo 256 and, last, 1 iff V[y] ≥ V[x] before. -/
def Obligations.SubRegRevWritesDifferenceAndNoBorrow : Prop :=
  ∀ (x y : Reg) (s : State), AnswersNext (exec (.subRegRev x y) s) fun t =>
    s.ResultAndFlag x ((s.v[y].toNat + 256 - s.v[x].toNat) % 256)
      (decide (s.v[y].toNat ≥ s.v[x].toNat)) t

/-- R100: shift-left writes 2 V[x] modulo 256 and, last, bit 7 of the old V[x]. -/
def Obligations.ShiftLeftWritesDoubleAndBitSeven : Prop :=
  ∀ (x : Reg) (s : State), AnswersNext (exec (.shiftLeft x) s) fun t =>
    s.ResultAndFlag x (2 * s.v[x].toNat % 256) (s.v[x].getLsbD 7) t

/-- R101, R102: with x ≠ 15 the result and the flag together are the exact result of the arithmetic. -/
def Obligations.ResultAndFlagAreExact : Prop :=
  ∀ (x y : Reg) (s : State),
    (AnswersNext (exec (.addReg x y) s) fun t => x ≠ vF →
      t.v[x].toNat + 256 * t.v[vF].toNat = s.v[x].toNat + s.v[y].toNat) ∧
    (AnswersNext (exec (.subReg x y) s) fun t => x ≠ vF →
      t.v[x].toNat + s.v[y].toNat = s.v[x].toNat + 256 * (1 - t.v[vF].toNat)) ∧
    (AnswersNext (exec (.subRegRev x y) s) fun t => x ≠ vF →
      t.v[x].toNat + s.v[x].toNat = s.v[y].toNat + 256 * (1 - t.v[vF].toNat)) ∧
    (AnswersNext (exec (.shiftRight x) s) fun t => x ≠ vF →
      2 * t.v[x].toNat + t.v[vF].toNat = s.v[x].toNat) ∧
    (AnswersNext (exec (.shiftLeft x) s) fun t => x ≠ vF →
      t.v[x].toNat + 256 * t.v[vF].toNat = 2 * s.v[x].toNat)

/-- R103: rand-and writes the drawn byte AND nn and consumes exactly one byte. The byte is a free value:
the statement holds whatever `Config.randomByte` is (notes/assumptions/1.md). -/
def Obligations.RandAndMasksOneDrawnByte : Prop :=
  ∀ (x : Reg) (nn : Byte) (s : State), AnswersNext (exec (.randAnd x nn) s) fun t =>
    t.v[x] = Config.randomByte s.draws &&& nn ∧ t.v[x] &&& ~~~nn = 0 ∧ t.draws = s.draws + 1 ∧
      (∀ k : Reg, k ≠ x → t.v[k] = s.v[k]) ∧ t = { s with v := t.v, draws := t.draws } ∧ s.SameMemory t

/-! ## Index register and memory -/

/-- R105, R106, R107: set-index, add-index and font-address write I and nothing else. -/
def Obligations.IndexInstructionsWriteI : Prop :=
  ∀ (addr : Addr) (x : Reg) (s : State),
    (AnswersNext (exec (.setIndex addr) s) fun t =>
      t.ireg.toNat = addr.toNat ∧ t = { s with ireg := t.ireg } ∧ s.SameMemory t) ∧
    (AnswersNext (exec (.addIndex x) s) fun t =>
      t.ireg.toNat = (s.ireg.toNat + s.v[x].toNat) % 65536 ∧ t = { s with ireg := t.ireg } ∧
        s.SameMemory t) ∧
    (AnswersNext (exec (.fontAddress x) s) fun t =>
      t.ireg.toNat = 5 * s.v[x].toNat ∧ t = { s with ireg := t.ireg } ∧ s.SameMemory t)

/-- R108: bcd(x) writes the three decimal digits of V[x] at I, I + 1, I + 2 and changes nothing else;
with I + 2 ≥ 4096 it returns BoundsError(MemWrite, I) and changes nothing. -/
def Obligations.BcdStoresDecimalDigits : Prop :=
  ∀ (x : Reg) (s : State), Memory.wf s.params.font s.mem = true →
    (s.ireg.toNat + 2 < 4096 → AnswersNext (exec (.bcd x) s) fun t =>
      (t.readByte s.ireg.toNat).toNat = s.v[x].toNat / 100 ∧
      (t.readByte (s.ireg.toNat + 1)).toNat = s.v[x].toNat / 10 % 10 ∧
      (t.readByte (s.ireg.toNat + 2)).toNat = s.v[x].toNat % 10 ∧
      100 * (t.readByte s.ireg.toNat).toNat + 10 * (t.readByte (s.ireg.toNat + 1)).toNat +
        (t.readByte (s.ireg.toNat + 2)).toNat = s.v[x].toNat ∧
      (∀ c, c < s.ireg.toNat ∨ s.ireg.toNat + 3 ≤ c → t.readByte c = s.readByte c) ∧
      t = { s with mem := t.mem }) ∧
    (4096 ≤ s.ireg.toNat + 2 → exec (.bcd x) s = .next { s with
      errors := .boundsError .memWrite s.ireg.toNat :: s.errors })

/-- R109: store-regs(x) writes V0 to Vx at I to I + x and changes nothing else; with I + x ≥ 4096 it
returns BoundsError(MemWrite, I) and changes nothing. -/
def Obligations.StoreRegsWritesPrefix : Prop :=
  ∀ (x : Reg) (s : State), Memory.wf s.params.font s.mem = true →
    (s.ireg.toNat + x.val < 4096 → AnswersNext (exec (.storeRegs x) s) fun t =>
      (∀ k : Reg, k ≤ x → t.readByte (s.ireg.toNat + k.val) = s.v[k]) ∧
      (∀ c, c < s.ireg.toNat ∨ s.ireg.toNat + x.val < c → t.readByte c = s.readByte c) ∧
      t = { s with mem := t.mem }) ∧
    (4096 ≤ s.ireg.toNat + x.val → exec (.storeRegs x) s = .next { s with
      errors := .boundsError .memWrite s.ireg.toNat :: s.errors })

/-- R110: load-regs(x) reads I to I + x into V0 to Vx and changes nothing else; with I + x ≥ 4096 it
returns BoundsError(MemRead, I) and changes nothing. -/
def Obligations.LoadRegsReadsPrefix : Prop :=
  ∀ (x : Reg) (s : State),
    (s.ireg.toNat + x.val < 4096 → AnswersNext (exec (.loadRegs x) s) fun t =>
      (∀ k : Reg, k ≤ x → t.v[k] = s.readByte (s.ireg.toNat + k.val)) ∧
      (∀ k : Reg, x < k → t.v[k] = s.v[k]) ∧ s.OnlyV t) ∧
    (4096 ≤ s.ireg.toNat + x.val → exec (.loadRegs x) s = .next { s with
      errors := .boundsError .memRead s.ireg.toNat :: s.errors })

/-- R110: store-regs(x), then any change to the registers V0 to Vx (a zeroing among them), then
load-regs(x) restores the registers exactly; I is unchanged. -/
def Obligations.StoreThenLoadRestoresRegisters : Prop :=
  ∀ (x : Reg) (s : State), Memory.wf s.params.font s.mem = true → s.ireg.toNat + x.val < 4096 →
    AnswersNext (exec (.storeRegs x) s) fun t => ∀ v' : Vector Byte 16,
      (∀ k : Reg, x < k → v'[k] = s.v[k]) →
      AnswersNext (exec (.loadRegs x) { t with v := v' }) fun u =>
        u.v = s.v ∧ u.ireg = s.ireg ∧ u = { s with mem := t.mem }

/-- R55: with PC where a fetch is possible, the next fetch after a store by store-regs or bcd, or after
the host's load, delivers the word made of the stored bytes where PC and PC + 1 lie in the stored range
and of the bytes there before elsewhere. -/
def Obligations.StoredBytesAreFetched : Prop :=
  ∀ s : State, Memory.wf s.params.font s.mem = true → s.pc.toNat ≤ 4094 →
    (∀ x : Reg, s.ireg.toNat + x.val < 4096 → AnswersNext (exec (.storeRegs x) s) fun t =>
      t.fetchWord = .ok (s.wordAfterStore s.ireg.toNat (s.v.toList.take (x.val + 1)))) ∧
    (∀ x : Reg, s.ireg.toNat + 2 < 4096 → AnswersNext (exec (.bcd x) s) fun t =>
      t.fetchWord = .ok (s.wordAfterStore s.ireg.toNat
        [BitVec.ofNat 8 (s.v[x].toNat / 100), BitVec.ofNat 8 (s.v[x].toNat / 10 % 10),
          BitVec.ofNat 8 (s.v[x].toNat % 10)])) ∧
    ∀ rom : List Byte, rom.length ≤ 3584 → AnswersNext (perform (.load rom) s) fun t =>
      t.fetchWord = .ok (s.wordAfterStore 0x200 rom)

/-! ## Display -/

/-- R113: clear-screen makes every cell false and changes nothing else. -/
def Obligations.ClearScreenBlanksEveryCell : Prop :=
  ∀ s : State, AnswersNext (exec .clearScreen s) fun t =>
    (∀ i : Fin 2048, t.fbCell i = false) ∧ t = { s with fb := t.fb } ∧ s.SameMemory t

/-- R114, R115, R116: draw toggles exactly the cells under a 1 bit of the sprite, VF is 1 iff one of
them was true and else 0 (also with n = 0), and nothing else has changed; with n ≥ 1 and
I + n - 1 ≥ 4096 it returns BoundsError(MemRead, I) and changes nothing. -/
def Obligations.DrawTogglesSpriteCells : Prop :=
  ∀ (x y : Reg) (n : Fin 16) (s : State),
    (n.val = 0 ∨ s.ireg.toNat + n.val ≤ 4096 → AnswersNext (exec (.draw x y n) s) fun t =>
      (∀ px py, s.SpriteBit x y n px py → t.fb.cell px py = !s.fb.cell px py) ∧
      (∀ px py, ¬ s.SpriteBit x y n px py → t.fb.cell px py = s.fb.cell px py) ∧
      ((∃ px py, s.SpriteBit x y n px py ∧ s.fb.cell px py = true) → t.v[vF] = 1) ∧
      ((¬ ∃ px py, s.SpriteBit x y n px py ∧ s.fb.cell px py = true) → t.v[vF] = 0) ∧
      (∀ k : Reg, k ≠ vF → t.v[k] = s.v[k]) ∧
      t = { s with v := t.v, fb := t.fb } ∧ s.SameMemory t) ∧
    (1 ≤ n.val → 4096 < s.ireg.toNat + n.val → exec (.draw x y n) s = .next { s with
      errors := .boundsError .memRead s.ireg.toNat :: s.errors })

/-- R115 (e): drawing the same sprite twice at the same position restores the framebuffer. The registers
are put back between the two, so the position is the same also where VF is a coordinate. -/
def Obligations.DrawTwiceRestoresFramebuffer : Prop :=
  ∀ (x y : Reg) (n : Fin 16) (s : State), n.val = 0 ∨ s.ireg.toNat + n.val ≤ 4096 →
    AnswersNext (exec (.draw x y n) s) fun t =>
      AnswersNext (exec (.draw x y n) { t with v := s.v }) fun u => u.fb = s.fb

/-- R25, R150 (a): cell `i` of the framebuffer is at column i mod 64 of row i div 64, and cell
64 py + px is the one at (px, py). -/
def Obligations.FramebufferIndexMapping : Prop :=
  (∀ i : Fin 2048, ((observeCoord i).1.val = i.val % 64 ∧ (observeCoord i).2.val = i.val / 64)) ∧
    (∀ (s : State) (px : Fin 64) (py : Fin 32) (h : 64 * py.val + px.val < 2048),
      s.observeCell ⟨64 * py.val + px.val, h⟩ = s.fb.cell px py)

/-! ## Keyboard and timers -/

/-- R118, R119: the key skips test the latch flag of key V[x]; with V[x] ≥ 16 they return
BoundsError(KeyIndex, V[x]) and change nothing. -/
def Obligations.KeySkipsTestTheLatch : Prop :=
  ∀ (x : Reg) (s : State),
    (∀ h : s.v[x].toNat < 16,
      exec (.skipKeyPressed x) s =
        .next { s with pc := if s.key[s.v[x].toNat]'h = true then s.pc + 2 else s.pc } ∧
      exec (.skipKeyNotPressed x) s =
        .next { s with pc := if s.key[s.v[x].toNat]'h = false then s.pc + 2 else s.pc }) ∧
    (16 ≤ s.v[x].toNat →
      exec (.skipKeyPressed x) s =
        .next { s with errors := .boundsError .keyIndex s.v[x].toNat :: s.errors } ∧
      exec (.skipKeyNotPressed x) s =
        .next { s with errors := .boundsError .keyIndex s.v[x].toNat :: s.errors })

/-- R120, R121: await-key with a key latched writes the least one to V[x] and applies the latch effect;
with none it puts PC back to A and records x in the mode. -/
def Obligations.AwaitKeyTakesLowestKeyOrWaits : Prop :=
  ∀ (x : Reg) (s : State),
    (∀ k0 : Reg, s.LeastPressed k0 → AnswersNext (exec (.awaitKey x) s) fun t =>
      t.v = s.v.set x (BitVec.ofNat 8 k0.val) ∧ (∀ k : Reg, t.key[k] = s.keyAfterEffect k0 k) ∧
        t = { s with v := t.v, key := t.key } ∧ s.SameMemory t) ∧
    ((∀ k : Reg, s.key[k] = false) →
      exec (.awaitKey x) s = .next { s with pc := s.pc - 2, mode := .awaitingKey x })

/-- R120: an await-key fetched from A with no key latched leaves PC at A, and the step that finds a key
leaves PC at A + 2 with V[x] the least key and the mode Running, whatever the host did to memory and
the latch in between. -/
def Obligations.AwaitKeyWaitsAtItsAddress : Prop :=
  ∀ (x : Reg) (s : State), s.mode = .running → s.pc.toNat ≤ 4094 →
    decodeWord (beWord (s.readByte s.pc.toNat) (s.readByte (s.pc.toNat + 1))) = .ok (.awaitKey x) →
    (∀ k : Reg, s.key[k] = false) →
    AnswersNext (step s) fun t =>
      t = { s with mode := .awaitingKey x } ∧
      ∀ (m : Memory) (key : Vector Bool 16) (k0 : Reg), State.LeastPressed { t with key := key } k0 →
        AnswersNext (step { t with mem := m, key := key }) fun u =>
          u.pc = s.pc + 2 ∧ u.mode = .running ∧ u.v[x].toNat = k0.val

/-- R122, R123, R124: read-delay, set-delay and set-sound move a byte between V[x] and a timer and
change nothing else. -/
def Obligations.TimerInstructionsMoveAByte : Prop :=
  ∀ (x : Reg) (s : State),
    (AnswersNext (exec (.readDelay x) s) fun t => s.OnlyVx x s.dt t) ∧
    exec (.setDelay x) s = .next { s with dt := s.v[x] } ∧
    exec (.setSound x) s = .next { s with st := s.v[x] }

/-- R28: the sound timer has no effect on execution: a step from a state with another value of ST
differs in ST only. -/
def Obligations.SoundTimerHasNoEffect : Prop :=
  ∀ (s t : State) (b : Byte), step s = .next t →
    ∃ c, step { s with st := b } = .next { t with st := c } ∧ (c = b ∨ c = t.st)

/-! ## Host operations -/

/-- R145: a tick takes 1 off each timer that is not 0 and changes nothing else. -/
def Obligations.TickCountsDownToZero : Prop :=
  ∀ s : State, AnswersNext (perform .tickTimers s) fun t =>
    t.dt.toNat = s.dt.toNat - 1 ∧ t.st.toNat = s.st.toNat - 1 ∧ t = { s with dt := t.dt, st := t.st }

/-- R146, R147: set_key changes one flag, or none with BoundsError(KeyIndex, code) for a code above 15;
clear_keys makes every flag false. -/
def Obligations.HostWritesTheLatch : Prop :=
  (∀ (code : Nat) (pressed : Bool) (s : State),
    (∀ h : code < 16, perform (.setKey code pressed) s =
      .next { s with key := s.key.set code pressed h }) ∧
    (16 ≤ code → perform (.setKey code pressed) s =
      .next { s with errors := .boundsError .keyIndex code :: s.errors })) ∧
  ∀ s : State, AnswersNext (perform .clearKeys s) fun t =>
    (∀ k : Reg, t.key[k] = false) ∧ t = { s with key := t.key }

/-- R31, R160, R161: the state after construction and the state after reset() from any state are the
state of the table. A reset changes neither the parameters, FONT among them, nor the random source, in
the model's own fields for them (R5, R160; notes/assumptions/1.md, notes/assumptions/2.md). -/
def Obligations.ResetGivesTheListedState : Prop :=
  State.reset.IsReset ∧ ∀ s : State, AnswersNext (perform .reset s) fun t =>
    t.IsReset ∧ t.params = s.params ∧ t.draws = s.draws

/-- R162, R163: load writes the ROM at 0x200 and nothing else, or, with more than 3584 bytes, returns
LoadError(len) and writes nothing. -/
def Obligations.LoadCopiesTheRom : Prop :=
  ∀ (rom : List Byte) (s : State), Memory.wf s.params.font s.mem = true →
    (rom.length ≤ 3584 → AnswersNext (perform (.load rom) s) fun t => s.OnlyBytes 0x200 rom t) ∧
    (3584 < rom.length → perform (.load rom) s =
      .next { s with errors := .loadError rom.length :: s.errors })

/-! ## The whole machine -/

/-- R12: what each instruction may write. A register, I, the stack, a timer, the mode, the framebuffer,
the latch, memory, PC or the random source differs after an instruction only if the table lists the
instruction as its writer. -/
def Obligations.OnlyListedInstructionsWrite : Prop :=
  ∀ (i : Instr) (s t : State), exec i s = .next t →
    (∀ k : Reg, i.writesV k = false → t.v[k] = s.v[k]) ∧
    (t.ireg ≠ s.ireg → (∃ a, i = .setIndex a) ∨ ∃ x, i = .addIndex x ∨ i = .fontAddress x) ∧
    (t.sp ≠ s.sp → i = .ret ∨ ∃ a, i = .call a) ∧
    (t.stack ≠ s.stack → ∃ a, i = .call a) ∧
    (t.dt ≠ s.dt → ∃ x, i = .setDelay x) ∧
    (t.st ≠ s.st → ∃ x, i = .setSound x) ∧
    (t.mode ≠ s.mode → ∃ x, i = .awaitKey x) ∧
    (t.fb ≠ s.fb → i = .clearScreen ∨ ∃ x y n, i = .draw x y n) ∧
    (t.key ≠ s.key → s.params.latchEffect ≠ .none ∧ ∃ x, i = .awaitKey x) ∧
    (t.mem ≠ s.mem → ∃ x, i = .bcd x ∨ i = .storeRegs x) ∧
    (t.draws ≠ s.draws → ∃ x nn, i = .randAnd x nn) ∧
    (t.pc ≠ s.pc → i = .ret ∨ (∃ a, i = .jump a ∨ i = .call a ∨ i = .jumpOffset a) ∨
      (∃ x nn, i = .skipEqImm x nn ∨ i = .skipNeqImm x nn) ∨
      (∃ x y, i = .skipEqReg x y ∨ i = .skipNeqReg x y) ∨
      ∃ x, i = .skipKeyPressed x ∨ i = .skipKeyNotPressed x ∨ i = .awaitKey x) ∧
    t.params = s.params

/-- R11: the flag an instruction writes to VF as a flag is 0 or 1. -/
def Obligations.FlagIsZeroOrOne : Prop :=
  ∀ (x y : Reg) (n : Fin 16) (s : State),
    (∀ i ∈ [Instr.addReg x y, .subReg x y, .subRegRev x y, .shiftRight x, .shiftLeft x],
      AnswersNext (exec i s) fun t => t.v[vF] = 0 ∨ t.v[vF] = 1) ∧
    ∀ t, exec (.draw x y n) s = .next t → t.errors = s.errors → t.v[vF] = 0 ∨ t.v[vF] = 1

/-- The invariant holds at reset (R31). -/
def Obligations.ResetMeetsInvariant : Prop := State.reset.Inv

/-- Every step keeps the invariant: memory in canonical form, SP at most 16 (R19), PC at most 0x10FE
(R18), every stack entry in use from 2 to 4096 (R80), and during a wait PC at most 4094 (R24). -/
def Obligations.EveryStepKeepsInvariant : Prop :=
  ∀ s t : State, s.Inv → step s = .next t → t.Inv

/-- Every schedule of operations from a state that meets the invariant runs to its end and keeps the
invariant: step and every host operation answer a next state. -/
def Obligations.EveryScheduleRunsAndKeepsInvariant : Prop :=
  ∀ (os : List Operation) (s : State), s.Inv → AnswersNext (runOps os s) State.Inv

/-- The model's one stop (notes/assumptions/5.md): a step faults only on SP above 16, and never
refuses. -/
def Obligations.StepStopsOnlyAboveStackTop : Prop :=
  ∀ s : State, (∀ f, step s = .fault f → 16 < s.sp.toNat) ∧ ∀ r, step s ≠ .refused r
end

