-- ==== Sys2Proof/Laws/Display.lean ====
section
/-!
SUPPORT. The laws of the framebuffer and of a sprite on it (spec/10_state.md R25;
spec/43_display.md R114, R115).
-/

namespace Sys2Proof.Machine

theorem Framebuffer.cell_setCell_same (f : Framebuffer) (px : Fin 64) (py : Fin 32) (b : Bool) :
    (f.setCell px py b).cell px py = b := by
  simp [Framebuffer.cell, Framebuffer.setCell]

theorem Framebuffer.cell_setCell_other (f : Framebuffer) {px qx : Fin 64} {py qy : Fin 32} (b : Bool)
    (h : (qx, qy) ≠ (px, py)) : (f.setCell px py b).cell qx qy = f.cell qx qy := by
  unfold Framebuffer.cell Framebuffer.setCell
  by_cases hy : py = qy
  · subst hy
    have hx : (px : Nat) ≠ qx := fun e => h (by rw [Fin.ext e])
    simp [hx]
  · have hy' : (py : Nat) ≠ qy := fun e => hy (Fin.ext e)
    simp [hy']

theorem Framebuffer.cell_blank (px : Fin 64) (py : Fin 32) : Framebuffer.blank.cell px py = false := by
  simp [Framebuffer.cell, Framebuffer.blank]

/-- Framebuffers with the same cells are equal. -/
theorem Framebuffer.ext_cell {f g : Framebuffer} (h : ∀ px py, f.cell px py = g.cell px py) : f = g := by
  refine Vector.ext fun y hy => Vector.ext fun x hx => ?_
  exact h ⟨x, hx⟩ ⟨y, hy⟩

/-- The index mapping of R25 reaches every cell once. -/
theorem cellIndex_inverse (i : Fin 2048) :
    64 * (cellRow i).val + (cellColumn i).val = i.val := by
  have h1 : (cellColumn i).val = i.val % 64 := rfl
  have h2 : (cellRow i).val = i.val / 64 % 32 := rfl
  omega

/-! ## Toggling a list of cells -/

theorem foldl_toggle_cell (ps : List Pixel) (acc : Framebuffer × Bool) (q : Pixel) :
    (ps.foldl togglePixel acc).1.cell q.1 q.2 =
      (acc.1.cell q.1 q.2 ^^ decide (ps.count q % 2 = 1)) := by
  induction ps generalizing acc with
  | nil => simp
  | cons p ps ih =>
    rw [List.foldl_cons, ih, List.count_cons]
    by_cases h : p = q
    · subst h
      rw [togglePixel, Framebuffer.cell_setCell_same]
      simp only [beq_self_eq_true, if_true]
      rcases Nat.mod_two_eq_zero_or_one (ps.count p) with e | e
      · rw [show (ps.count p + 1) % 2 = 1 by omega, e]
        cases acc.1.cell p.1 p.2 <;> rfl
      · rw [show (ps.count p + 1) % 2 = 0 by omega, e]
        cases acc.1.cell p.1 p.2 <;> rfl
    · rw [togglePixel, Framebuffer.cell_setCell_other _ _ (fun e => h e.symm)]
      simp [h]

/-- A cell after a sprite: toggled once for each time it is under a 1 bit. -/
theorem blit_cell (f : Framebuffer) (ps : List Pixel) (q : Pixel) :
    (blit f ps).1.cell q.1 q.2 = (f.cell q.1 q.2 ^^ decide (ps.count q % 2 = 1)) :=
  foldl_toggle_cell ps (f, false) q

/-- A cell after a sprite no two of whose pixels share a cell. -/
theorem blit_cell_of_nodup {ps : List Pixel} (h : ps.Nodup) (f : Framebuffer) (q : Pixel) :
    (blit f ps).1.cell q.1 q.2 = (f.cell q.1 q.2 ^^ decide (q ∈ ps)) := by
  rw [blit_cell]
  by_cases hq : q ∈ ps
  · rw [List.count_eq_one_of_mem h hq]
    simp [hq]
  · rw [List.count_eq_zero_of_not_mem hq]
    simp [hq]

theorem foldl_toggle_flag {ps : List Pixel} (h : ps.Nodup) (acc : Framebuffer × Bool) :
    (ps.foldl togglePixel acc).2 = (acc.2 || ps.any fun q => acc.1.cell q.1 q.2) := by
  induction ps generalizing acc with
  | nil => simp
  | cons p ps ih =>
    obtain ⟨hp, hps⟩ := List.nodup_cons.1 h
    rw [List.foldl_cons, ih hps]
    have : (ps.any fun q => (togglePixel acc p).1.cell q.1 q.2) =
        ps.any fun q => acc.1.cell q.1 q.2 := by
      rw [Bool.eq_iff_iff, List.any_eq_true, List.any_eq_true]
      refine exists_congr fun q => and_congr_right fun hq => ?_
      rw [togglePixel, Framebuffer.cell_setCell_other]
      exact fun e => hp ((show q = p from e) ▸ hq)
    rw [this]
    simp [togglePixel, Bool.or_assoc]

/-- The collision flag of a sprite no two of whose pixels share a cell: some 1 bit fell on a cell that
was true before the instruction (R114, R115 (d)). -/
theorem blit_collision_of_nodup {ps : List Pixel} (h : ps.Nodup) (f : Framebuffer) :
    (blit f ps).2 = ps.any fun q => f.cell q.1 q.2 := by
  rw [blit, foldl_toggle_flag h]
  rfl

/-! ## The pixels of a sprite -/

theorem mem_rowPixels {x0 : Nat} {py : Fin 32} {b : Byte} {q : Pixel} :
    q ∈ rowPixels x0 py b ↔
      ∃ c, c < 8 ∧ b.getLsbD (7 - c) = true ∧ q = (Fin.ofNat 64 (x0 + c), py) := by
  simp only [rowPixels, List.mem_map, List.mem_filter, List.mem_range]
  exact ⟨fun ⟨c, h, e⟩ => ⟨c, h.1, h.2, e.symm⟩, fun ⟨c, h, h', e⟩ => ⟨c, ⟨h, h'⟩, e.symm⟩⟩

/-- The cells under the 1 bits of a sprite, by row and column (R114). -/
theorem mem_spritePixels {x0 y0 : Nat} {rows : List Byte} {q : Pixel} :
    q ∈ spritePixels x0 y0 rows ↔
      ∃ r c, r < rows.length ∧ c < 8 ∧ (rows.getD r 0).getLsbD (7 - c) = true ∧
        q = (Fin.ofNat 64 (x0 + c), Fin.ofNat 32 (y0 + r)) := by
  induction rows generalizing y0 with
  | nil => simp [spritePixels]
  | cons b bs ih =>
    rw [spritePixels, List.mem_append, mem_rowPixels, ih]
    constructor
    · rintro (⟨c, hc, hb, rfl⟩ | ⟨r, c, hr, hc, hb, rfl⟩)
      · exact ⟨0, c, by simp, hc, by simpa using hb, by simp⟩
      · exact ⟨r + 1, c, by simpa using hr, hc, by simpa using hb, by
          rw [Nat.add_assoc, Nat.add_comm 1 r]⟩
    · rintro ⟨r, c, hr, hc, hb, rfl⟩
      cases r with
      | zero => exact .inl ⟨c, hc, by simpa using hb, by simp⟩
      | succ r => exact .inr ⟨r, c, by simpa using hr, hc, by simpa using hb, by
          rw [Nat.add_assoc, Nat.add_comm 1 r]⟩

theorem rowPixels_nodup (x0 : Nat) (py : Fin 32) (b : Byte) : (rowPixels x0 py b).Nodup := by
  refine List.Nodup.map_on ?_ (List.Nodup.filter _ List.nodup_range)
  intro c hc d hd h
  have hc := (List.mem_filter.1 hc).1
  have hd := (List.mem_filter.1 hd).1
  rw [List.mem_range] at hc hd
  have h1 : (x0 + c) % 64 = (x0 + d) % 64 := congrArg (fun p : Pixel => p.1.val) h
  omega

/-- No two pixels of a sprite of at most 32 rows land on one cell (R115 (d)). -/
theorem spritePixels_nodup (x0 y0 : Nat) {rows : List Byte} (h : rows.length ≤ 32) :
    (spritePixels x0 y0 rows).Nodup := by
  induction rows generalizing y0 with
  | nil => exact List.nodup_nil
  | cons b bs ih =>
    simp only [List.length_cons] at h
    rw [spritePixels, List.nodup_append]
    refine ⟨rowPixels_nodup _ _ _, ih (y0 + 1) (by omega), fun p hp q hq hpq => ?_⟩
    obtain ⟨c, -, -, rfl⟩ := mem_rowPixels.1 hp
    obtain ⟨r, d, hr, -, -, rfl⟩ := mem_spritePixels.1 hq
    have h2 : y0 % 32 = (y0 + 1 + r) % 32 := congrArg (fun p : Pixel => p.2.val) hpq
    omega

end Sys2Proof.Machine
end

