-- ==== Sys2Proof/Laws/Encoding.lean ====
section
/-!
SUPPORT. The fields of a word as arithmetic on its value, and the fields of an encoded word
(spec/30_encoding.md R61, R62).
-/

namespace Sys2Proof

theorem nibble0_toNat (w : Word) : (nibble0 w).toNat = w.toNat / 4096 := by
  have := w.isLt
  simp only [nibble0, BitVec.extractLsb'_toNat, Nat.shiftRight_eq_div_pow]
  omega

theorem nibble1_toNat (w : Word) : (nibble1 w).toNat = w.toNat / 256 % 16 := by
  simp only [nibble1, BitVec.extractLsb'_toNat, Nat.shiftRight_eq_div_pow]

theorem nibble2_toNat (w : Word) : (nibble2 w).toNat = w.toNat / 16 % 16 := by
  simp only [nibble2, BitVec.extractLsb'_toNat, Nat.shiftRight_eq_div_pow]

theorem nibble3_toNat (w : Word) : (nibble3 w).toNat = w.toNat % 16 := by
  simp only [nibble3, BitVec.extractLsb'_toNat, Nat.shiftRight_eq_div_pow]
  simp

theorem fieldX_val (w : Word) : (fieldX w).val = w.toNat / 256 % 16 := nibble1_toNat w

theorem fieldY_val (w : Word) : (fieldY w).val = w.toNat / 16 % 16 := nibble2_toNat w

theorem fieldN_val (w : Word) : (fieldN w).val = w.toNat % 16 := nibble3_toNat w

theorem fieldNN_toNat (w : Word) : (fieldNN w).toNat = w.toNat % 256 := by
  simp only [fieldNN, BitVec.extractLsb'_toNat, Nat.shiftRight_eq_div_pow]
  simp

theorem fieldAddr_toNat (w : Word) : (fieldAddr w).toNat = w.toNat % 4096 := by
  simp only [fieldAddr, BitVec.extractLsb'_toNat, Nat.shiftRight_eq_div_pow]
  simp

theorem encodeAddr_toNat {op : Nat} (h : op < 16) (addr : Addr) :
    (encodeAddr op addr).toNat = 4096 * op + addr.toNat := by
  have := addr.isLt
  simp only [encodeAddr, BitVec.toNat_ofNat]
  omega

theorem encodeXNN_toNat {op : Nat} (h : op < 16) (x : Reg) (nn : Byte) :
    (encodeXNN op x nn).toNat = 4096 * op + 256 * x.val + nn.toNat := by
  have := nn.isLt
  have := x.isLt
  simp only [encodeXNN, BitVec.toNat_ofNat]
  omega

theorem encodeXYN_toNat {op : Nat} (h : op < 16) (x y : Reg) (n : Fin 16) :
    (encodeXYN op x y n).toNat = 4096 * op + 256 * x.val + 16 * y.val + n.val := by
  have := x.isLt
  have := y.isLt
  have := n.isLt
  simp only [encodeXYN, ofNibbles, BitVec.toNat_ofNat]
  omega

theorem beWord_toNat (hi lo : Byte) : (beWord hi lo).toNat = 256 * hi.toNat + lo.toNat := by
  have := hi.isLt
  have := lo.isLt
  simp only [beWord, BitVec.toNat_ofNat]
  omega

/-- A word is the big-endian join of its two bytes. -/
theorem beWord_bytes (w : Word) : beWord (hiByte w) (loByte w) = w := by
  apply BitVec.eq_of_toNat_eq
  have := w.isLt
  rw [beWord_toNat]
  simp only [hiByte, loByte, BitVec.toNat_ofNat]
  omega

/-- The table's word is decoded as it stands. -/
theorem decodeTableWord_of_decodeWord {w : Nat} {i : Instr} (h : decodeWord (BitVec.ofNat 16 w) = .ok i)
    (hw : w < 2 ^ 16) : decodeTableWord 16 w = some i := by
  simp only [decodeTableWord, decode, beWord_bytes, Nat.mod_eq_of_lt hw, h]

end Sys2Proof
end

