-- ==== Sys2Proof/Laws/State.lean ====
section
/-!
SUPPORT. What each update of the state does to each field: one lemma per field per update, true by
unfolding once here, so that no later proof unfolds a record update.
-/

namespace Sys2Proof.Machine

variable (s : State)

/-! ### `setV` -/

@[simp] theorem State.setV_mem (x : Reg) (b : Byte) : (s.setV x b).mem = s.mem := rfl
@[simp] theorem State.setV_v (x : Reg) (b : Byte) : (s.setV x b).v = s.v.set x b := rfl
@[simp] theorem State.setV_ireg (x : Reg) (b : Byte) : (s.setV x b).ireg = s.ireg := rfl
@[simp] theorem State.setV_pc (x : Reg) (b : Byte) : (s.setV x b).pc = s.pc := rfl
@[simp] theorem State.setV_sp (x : Reg) (b : Byte) : (s.setV x b).sp = s.sp := rfl
@[simp] theorem State.setV_stack (x : Reg) (b : Byte) : (s.setV x b).stack = s.stack := rfl
@[simp] theorem State.setV_dt (x : Reg) (b : Byte) : (s.setV x b).dt = s.dt := rfl
@[simp] theorem State.setV_st (x : Reg) (b : Byte) : (s.setV x b).st = s.st := rfl
@[simp] theorem State.setV_mode (x : Reg) (b : Byte) : (s.setV x b).mode = s.mode := rfl
@[simp] theorem State.setV_fb (x : Reg) (b : Byte) : (s.setV x b).fb = s.fb := rfl
@[simp] theorem State.setV_key (x : Reg) (b : Byte) : (s.setV x b).key = s.key := rfl
@[simp] theorem State.setV_params (x : Reg) (b : Byte) : (s.setV x b).params = s.params := rfl
@[simp] theorem State.setV_draws (x : Reg) (b : Byte) : (s.setV x b).draws = s.draws := rfl
@[simp] theorem State.setV_errors (x : Reg) (b : Byte) : (s.setV x b).errors = s.errors := rfl

/-! ### `setFlag` -/

@[simp] theorem State.setFlag_mem (f : Bool) : (s.setFlag f).mem = s.mem := rfl
@[simp] theorem State.setFlag_v (f : Bool) : (s.setFlag f).v = s.v.set vF (flagByte f) := rfl
@[simp] theorem State.setFlag_ireg (f : Bool) : (s.setFlag f).ireg = s.ireg := rfl
@[simp] theorem State.setFlag_pc (f : Bool) : (s.setFlag f).pc = s.pc := rfl
@[simp] theorem State.setFlag_sp (f : Bool) : (s.setFlag f).sp = s.sp := rfl
@[simp] theorem State.setFlag_stack (f : Bool) : (s.setFlag f).stack = s.stack := rfl
@[simp] theorem State.setFlag_dt (f : Bool) : (s.setFlag f).dt = s.dt := rfl
@[simp] theorem State.setFlag_st (f : Bool) : (s.setFlag f).st = s.st := rfl
@[simp] theorem State.setFlag_mode (f : Bool) : (s.setFlag f).mode = s.mode := rfl
@[simp] theorem State.setFlag_fb (f : Bool) : (s.setFlag f).fb = s.fb := rfl
@[simp] theorem State.setFlag_key (f : Bool) : (s.setFlag f).key = s.key := rfl
@[simp] theorem State.setFlag_params (f : Bool) : (s.setFlag f).params = s.params := rfl
@[simp] theorem State.setFlag_draws (f : Bool) : (s.setFlag f).draws = s.draws := rfl
@[simp] theorem State.setFlag_errors (f : Bool) : (s.setFlag f).errors = s.errors := rfl

/-! ### `setResultAndFlag` -/

@[simp] theorem State.setResultAndFlag_mem (x : Reg) (r : Byte) (f : Bool) :
    (s.setResultAndFlag x r f).mem = s.mem := rfl
@[simp] theorem State.setResultAndFlag_v (x : Reg) (r : Byte) (f : Bool) :
    (s.setResultAndFlag x r f).v = (s.v.set x r).set vF (flagByte f) := rfl
@[simp] theorem State.setResultAndFlag_ireg (x : Reg) (r : Byte) (f : Bool) :
    (s.setResultAndFlag x r f).ireg = s.ireg := rfl
@[simp] theorem State.setResultAndFlag_pc (x : Reg) (r : Byte) (f : Bool) :
    (s.setResultAndFlag x r f).pc = s.pc := rfl
@[simp] theorem State.setResultAndFlag_sp (x : Reg) (r : Byte) (f : Bool) :
    (s.setResultAndFlag x r f).sp = s.sp := rfl
@[simp] theorem State.setResultAndFlag_stack (x : Reg) (r : Byte) (f : Bool) :
    (s.setResultAndFlag x r f).stack = s.stack := rfl
@[simp] theorem State.setResultAndFlag_dt (x : Reg) (r : Byte) (f : Bool) :
    (s.setResultAndFlag x r f).dt = s.dt := rfl
@[simp] theorem State.setResultAndFlag_st (x : Reg) (r : Byte) (f : Bool) :
    (s.setResultAndFlag x r f).st = s.st := rfl
@[simp] theorem State.setResultAndFlag_mode (x : Reg) (r : Byte) (f : Bool) :
    (s.setResultAndFlag x r f).mode = s.mode := rfl
@[simp] theorem State.setResultAndFlag_fb (x : Reg) (r : Byte) (f : Bool) :
    (s.setResultAndFlag x r f).fb = s.fb := rfl
@[simp] theorem State.setResultAndFlag_key (x : Reg) (r : Byte) (f : Bool) :
    (s.setResultAndFlag x r f).key = s.key := rfl
@[simp] theorem State.setResultAndFlag_params (x : Reg) (r : Byte) (f : Bool) :
    (s.setResultAndFlag x r f).params = s.params := rfl
@[simp] theorem State.setResultAndFlag_draws (x : Reg) (r : Byte) (f : Bool) :
    (s.setResultAndFlag x r f).draws = s.draws := rfl
@[simp] theorem State.setResultAndFlag_errors (x : Reg) (r : Byte) (f : Bool) :
    (s.setResultAndFlag x r f).errors = s.errors := rfl

/-! ### `loadPrefix` -/

@[simp] theorem State.loadPrefix_mem (x : Reg) (bs : List Byte) :
    (s.loadPrefix x bs).mem = s.mem := rfl
@[simp] theorem State.loadPrefix_v (x : Reg) (bs : List Byte) :
    (s.loadPrefix x bs).v = Vector.ofFn fun k => if k ≤ x then bs.getD k.val 0 else s.v[k] := rfl
@[simp] theorem State.loadPrefix_ireg (x : Reg) (bs : List Byte) :
    (s.loadPrefix x bs).ireg = s.ireg := rfl
@[simp] theorem State.loadPrefix_pc (x : Reg) (bs : List Byte) :
    (s.loadPrefix x bs).pc = s.pc := rfl
@[simp] theorem State.loadPrefix_sp (x : Reg) (bs : List Byte) :
    (s.loadPrefix x bs).sp = s.sp := rfl
@[simp] theorem State.loadPrefix_stack (x : Reg) (bs : List Byte) :
    (s.loadPrefix x bs).stack = s.stack := rfl
@[simp] theorem State.loadPrefix_dt (x : Reg) (bs : List Byte) :
    (s.loadPrefix x bs).dt = s.dt := rfl
@[simp] theorem State.loadPrefix_st (x : Reg) (bs : List Byte) :
    (s.loadPrefix x bs).st = s.st := rfl
@[simp] theorem State.loadPrefix_mode (x : Reg) (bs : List Byte) :
    (s.loadPrefix x bs).mode = s.mode := rfl
@[simp] theorem State.loadPrefix_fb (x : Reg) (bs : List Byte) :
    (s.loadPrefix x bs).fb = s.fb := rfl
@[simp] theorem State.loadPrefix_key (x : Reg) (bs : List Byte) :
    (s.loadPrefix x bs).key = s.key := rfl
@[simp] theorem State.loadPrefix_params (x : Reg) (bs : List Byte) :
    (s.loadPrefix x bs).params = s.params := rfl
@[simp] theorem State.loadPrefix_draws (x : Reg) (bs : List Byte) :
    (s.loadPrefix x bs).draws = s.draws := rfl
@[simp] theorem State.loadPrefix_errors (x : Reg) (bs : List Byte) :
    (s.loadPrefix x bs).errors = s.errors := rfl

/-! ### `setI` -/

@[simp] theorem State.setI_mem (w : Word) : (s.setI w).mem = s.mem := rfl
@[simp] theorem State.setI_v (w : Word) : (s.setI w).v = s.v := rfl
@[simp] theorem State.setI_ireg (w : Word) : (s.setI w).ireg = w := rfl
@[simp] theorem State.setI_pc (w : Word) : (s.setI w).pc = s.pc := rfl
@[simp] theorem State.setI_sp (w : Word) : (s.setI w).sp = s.sp := rfl
@[simp] theorem State.setI_stack (w : Word) : (s.setI w).stack = s.stack := rfl
@[simp] theorem State.setI_dt (w : Word) : (s.setI w).dt = s.dt := rfl
@[simp] theorem State.setI_st (w : Word) : (s.setI w).st = s.st := rfl
@[simp] theorem State.setI_mode (w : Word) : (s.setI w).mode = s.mode := rfl
@[simp] theorem State.setI_fb (w : Word) : (s.setI w).fb = s.fb := rfl
@[simp] theorem State.setI_key (w : Word) : (s.setI w).key = s.key := rfl
@[simp] theorem State.setI_params (w : Word) : (s.setI w).params = s.params := rfl
@[simp] theorem State.setI_draws (w : Word) : (s.setI w).draws = s.draws := rfl
@[simp] theorem State.setI_errors (w : Word) : (s.setI w).errors = s.errors := rfl

/-! ### `setPc` -/

@[simp] theorem State.setPc_mem (w : Word) : (s.setPc w).mem = s.mem := rfl
@[simp] theorem State.setPc_v (w : Word) : (s.setPc w).v = s.v := rfl
@[simp] theorem State.setPc_ireg (w : Word) : (s.setPc w).ireg = s.ireg := rfl
@[simp] theorem State.setPc_pc (w : Word) : (s.setPc w).pc = w := rfl
@[simp] theorem State.setPc_sp (w : Word) : (s.setPc w).sp = s.sp := rfl
@[simp] theorem State.setPc_stack (w : Word) : (s.setPc w).stack = s.stack := rfl
@[simp] theorem State.setPc_dt (w : Word) : (s.setPc w).dt = s.dt := rfl
@[simp] theorem State.setPc_st (w : Word) : (s.setPc w).st = s.st := rfl
@[simp] theorem State.setPc_mode (w : Word) : (s.setPc w).mode = s.mode := rfl
@[simp] theorem State.setPc_fb (w : Word) : (s.setPc w).fb = s.fb := rfl
@[simp] theorem State.setPc_key (w : Word) : (s.setPc w).key = s.key := rfl
@[simp] theorem State.setPc_params (w : Word) : (s.setPc w).params = s.params := rfl
@[simp] theorem State.setPc_draws (w : Word) : (s.setPc w).draws = s.draws := rfl
@[simp] theorem State.setPc_errors (w : Word) : (s.setPc w).errors = s.errors := rfl

/-! ### `advancePc` -/

@[simp] theorem State.advancePc_mem : (s.advancePc).mem = s.mem := rfl
@[simp] theorem State.advancePc_v : (s.advancePc).v = s.v := rfl
@[simp] theorem State.advancePc_ireg : (s.advancePc).ireg = s.ireg := rfl
@[simp] theorem State.advancePc_pc : (s.advancePc).pc = s.pc + 2 := rfl
@[simp] theorem State.advancePc_sp : (s.advancePc).sp = s.sp := rfl
@[simp] theorem State.advancePc_stack : (s.advancePc).stack = s.stack := rfl
@[simp] theorem State.advancePc_dt : (s.advancePc).dt = s.dt := rfl
@[simp] theorem State.advancePc_st : (s.advancePc).st = s.st := rfl
@[simp] theorem State.advancePc_mode : (s.advancePc).mode = s.mode := rfl
@[simp] theorem State.advancePc_fb : (s.advancePc).fb = s.fb := rfl
@[simp] theorem State.advancePc_key : (s.advancePc).key = s.key := rfl
@[simp] theorem State.advancePc_params : (s.advancePc).params = s.params := rfl
@[simp] theorem State.advancePc_draws : (s.advancePc).draws = s.draws := rfl
@[simp] theorem State.advancePc_errors : (s.advancePc).errors = s.errors := rfl

/-! ### `rewindPc` -/

@[simp] theorem State.rewindPc_mem : (s.rewindPc).mem = s.mem := rfl
@[simp] theorem State.rewindPc_v : (s.rewindPc).v = s.v := rfl
@[simp] theorem State.rewindPc_ireg : (s.rewindPc).ireg = s.ireg := rfl
@[simp] theorem State.rewindPc_pc : (s.rewindPc).pc = s.pc - 2 := rfl
@[simp] theorem State.rewindPc_sp : (s.rewindPc).sp = s.sp := rfl
@[simp] theorem State.rewindPc_stack : (s.rewindPc).stack = s.stack := rfl
@[simp] theorem State.rewindPc_dt : (s.rewindPc).dt = s.dt := rfl
@[simp] theorem State.rewindPc_st : (s.rewindPc).st = s.st := rfl
@[simp] theorem State.rewindPc_mode : (s.rewindPc).mode = s.mode := rfl
@[simp] theorem State.rewindPc_fb : (s.rewindPc).fb = s.fb := rfl
@[simp] theorem State.rewindPc_key : (s.rewindPc).key = s.key := rfl
@[simp] theorem State.rewindPc_params : (s.rewindPc).params = s.params := rfl
@[simp] theorem State.rewindPc_draws : (s.rewindPc).draws = s.draws := rfl
@[simp] theorem State.rewindPc_errors : (s.rewindPc).errors = s.errors := rfl

/-! ### `setDt` -/

@[simp] theorem State.setDt_mem (b : Byte) : (s.setDt b).mem = s.mem := rfl
@[simp] theorem State.setDt_v (b : Byte) : (s.setDt b).v = s.v := rfl
@[simp] theorem State.setDt_ireg (b : Byte) : (s.setDt b).ireg = s.ireg := rfl
@[simp] theorem State.setDt_pc (b : Byte) : (s.setDt b).pc = s.pc := rfl
@[simp] theorem State.setDt_sp (b : Byte) : (s.setDt b).sp = s.sp := rfl
@[simp] theorem State.setDt_stack (b : Byte) : (s.setDt b).stack = s.stack := rfl
@[simp] theorem State.setDt_dt (b : Byte) : (s.setDt b).dt = b := rfl
@[simp] theorem State.setDt_st (b : Byte) : (s.setDt b).st = s.st := rfl
@[simp] theorem State.setDt_mode (b : Byte) : (s.setDt b).mode = s.mode := rfl
@[simp] theorem State.setDt_fb (b : Byte) : (s.setDt b).fb = s.fb := rfl
@[simp] theorem State.setDt_key (b : Byte) : (s.setDt b).key = s.key := rfl
@[simp] theorem State.setDt_params (b : Byte) : (s.setDt b).params = s.params := rfl
@[simp] theorem State.setDt_draws (b : Byte) : (s.setDt b).draws = s.draws := rfl
@[simp] theorem State.setDt_errors (b : Byte) : (s.setDt b).errors = s.errors := rfl

/-! ### `setSt` -/

@[simp] theorem State.setSt_mem (b : Byte) : (s.setSt b).mem = s.mem := rfl
@[simp] theorem State.setSt_v (b : Byte) : (s.setSt b).v = s.v := rfl
@[simp] theorem State.setSt_ireg (b : Byte) : (s.setSt b).ireg = s.ireg := rfl
@[simp] theorem State.setSt_pc (b : Byte) : (s.setSt b).pc = s.pc := rfl
@[simp] theorem State.setSt_sp (b : Byte) : (s.setSt b).sp = s.sp := rfl
@[simp] theorem State.setSt_stack (b : Byte) : (s.setSt b).stack = s.stack := rfl
@[simp] theorem State.setSt_dt (b : Byte) : (s.setSt b).dt = s.dt := rfl
@[simp] theorem State.setSt_st (b : Byte) : (s.setSt b).st = b := rfl
@[simp] theorem State.setSt_mode (b : Byte) : (s.setSt b).mode = s.mode := rfl
@[simp] theorem State.setSt_fb (b : Byte) : (s.setSt b).fb = s.fb := rfl
@[simp] theorem State.setSt_key (b : Byte) : (s.setSt b).key = s.key := rfl
@[simp] theorem State.setSt_params (b : Byte) : (s.setSt b).params = s.params := rfl
@[simp] theorem State.setSt_draws (b : Byte) : (s.setSt b).draws = s.draws := rfl
@[simp] theorem State.setSt_errors (b : Byte) : (s.setSt b).errors = s.errors := rfl

/-! ### `setMode` -/

@[simp] theorem State.setMode_mem (m : Mode) : (s.setMode m).mem = s.mem := rfl
@[simp] theorem State.setMode_v (m : Mode) : (s.setMode m).v = s.v := rfl
@[simp] theorem State.setMode_ireg (m : Mode) : (s.setMode m).ireg = s.ireg := rfl
@[simp] theorem State.setMode_pc (m : Mode) : (s.setMode m).pc = s.pc := rfl
@[simp] theorem State.setMode_sp (m : Mode) : (s.setMode m).sp = s.sp := rfl
@[simp] theorem State.setMode_stack (m : Mode) : (s.setMode m).stack = s.stack := rfl
@[simp] theorem State.setMode_dt (m : Mode) : (s.setMode m).dt = s.dt := rfl
@[simp] theorem State.setMode_st (m : Mode) : (s.setMode m).st = s.st := rfl
@[simp] theorem State.setMode_mode (m : Mode) : (s.setMode m).mode = m := rfl
@[simp] theorem State.setMode_fb (m : Mode) : (s.setMode m).fb = s.fb := rfl
@[simp] theorem State.setMode_key (m : Mode) : (s.setMode m).key = s.key := rfl
@[simp] theorem State.setMode_params (m : Mode) : (s.setMode m).params = s.params := rfl
@[simp] theorem State.setMode_draws (m : Mode) : (s.setMode m).draws = s.draws := rfl
@[simp] theorem State.setMode_errors (m : Mode) : (s.setMode m).errors = s.errors := rfl

/-! ### `setFb` -/

@[simp] theorem State.setFb_mem (f : Framebuffer) : (s.setFb f).mem = s.mem := rfl
@[simp] theorem State.setFb_v (f : Framebuffer) : (s.setFb f).v = s.v := rfl
@[simp] theorem State.setFb_ireg (f : Framebuffer) : (s.setFb f).ireg = s.ireg := rfl
@[simp] theorem State.setFb_pc (f : Framebuffer) : (s.setFb f).pc = s.pc := rfl
@[simp] theorem State.setFb_sp (f : Framebuffer) : (s.setFb f).sp = s.sp := rfl
@[simp] theorem State.setFb_stack (f : Framebuffer) : (s.setFb f).stack = s.stack := rfl
@[simp] theorem State.setFb_dt (f : Framebuffer) : (s.setFb f).dt = s.dt := rfl
@[simp] theorem State.setFb_st (f : Framebuffer) : (s.setFb f).st = s.st := rfl
@[simp] theorem State.setFb_mode (f : Framebuffer) : (s.setFb f).mode = s.mode := rfl
@[simp] theorem State.setFb_fb (f : Framebuffer) : (s.setFb f).fb = f := rfl
@[simp] theorem State.setFb_key (f : Framebuffer) : (s.setFb f).key = s.key := rfl
@[simp] theorem State.setFb_params (f : Framebuffer) : (s.setFb f).params = s.params := rfl
@[simp] theorem State.setFb_draws (f : Framebuffer) : (s.setFb f).draws = s.draws := rfl
@[simp] theorem State.setFb_errors (f : Framebuffer) : (s.setFb f).errors = s.errors := rfl

/-! ### `setKey` -/

@[simp] theorem State.setKey_mem (k : Reg) (b : Bool) : (s.setKey k b).mem = s.mem := rfl
@[simp] theorem State.setKey_v (k : Reg) (b : Bool) : (s.setKey k b).v = s.v := rfl
@[simp] theorem State.setKey_ireg (k : Reg) (b : Bool) : (s.setKey k b).ireg = s.ireg := rfl
@[simp] theorem State.setKey_pc (k : Reg) (b : Bool) : (s.setKey k b).pc = s.pc := rfl
@[simp] theorem State.setKey_sp (k : Reg) (b : Bool) : (s.setKey k b).sp = s.sp := rfl
@[simp] theorem State.setKey_stack (k : Reg) (b : Bool) : (s.setKey k b).stack = s.stack := rfl
@[simp] theorem State.setKey_dt (k : Reg) (b : Bool) : (s.setKey k b).dt = s.dt := rfl
@[simp] theorem State.setKey_st (k : Reg) (b : Bool) : (s.setKey k b).st = s.st := rfl
@[simp] theorem State.setKey_mode (k : Reg) (b : Bool) : (s.setKey k b).mode = s.mode := rfl
@[simp] theorem State.setKey_fb (k : Reg) (b : Bool) : (s.setKey k b).fb = s.fb := rfl
@[simp] theorem State.setKey_key (k : Reg) (b : Bool) : (s.setKey k b).key = s.key.set k b := rfl
@[simp] theorem State.setKey_params (k : Reg) (b : Bool) : (s.setKey k b).params = s.params := rfl
@[simp] theorem State.setKey_draws (k : Reg) (b : Bool) : (s.setKey k b).draws = s.draws := rfl
@[simp] theorem State.setKey_errors (k : Reg) (b : Bool) : (s.setKey k b).errors = s.errors := rfl

/-! ### `releaseAllKeys` -/

@[simp] theorem State.releaseAllKeys_mem : (s.releaseAllKeys).mem = s.mem := rfl
@[simp] theorem State.releaseAllKeys_v : (s.releaseAllKeys).v = s.v := rfl
@[simp] theorem State.releaseAllKeys_ireg : (s.releaseAllKeys).ireg = s.ireg := rfl
@[simp] theorem State.releaseAllKeys_pc : (s.releaseAllKeys).pc = s.pc := rfl
@[simp] theorem State.releaseAllKeys_sp : (s.releaseAllKeys).sp = s.sp := rfl
@[simp] theorem State.releaseAllKeys_stack : (s.releaseAllKeys).stack = s.stack := rfl
@[simp] theorem State.releaseAllKeys_dt : (s.releaseAllKeys).dt = s.dt := rfl
@[simp] theorem State.releaseAllKeys_st : (s.releaseAllKeys).st = s.st := rfl
@[simp] theorem State.releaseAllKeys_mode : (s.releaseAllKeys).mode = s.mode := rfl
@[simp] theorem State.releaseAllKeys_fb : (s.releaseAllKeys).fb = s.fb := rfl
@[simp] theorem State.releaseAllKeys_key : (s.releaseAllKeys).key = Vector.replicate 16 false := rfl
@[simp] theorem State.releaseAllKeys_params : (s.releaseAllKeys).params = s.params := rfl
@[simp] theorem State.releaseAllKeys_draws : (s.releaseAllKeys).draws = s.draws := rfl
@[simp] theorem State.releaseAllKeys_errors : (s.releaseAllKeys).errors = s.errors := rfl

/-! ### `recordError` -/

@[simp] theorem State.recordError_mem (e : MachineError) : (s.recordError e).mem = s.mem := rfl
@[simp] theorem State.recordError_v (e : MachineError) : (s.recordError e).v = s.v := rfl
@[simp] theorem State.recordError_ireg (e : MachineError) : (s.recordError e).ireg = s.ireg := rfl
@[simp] theorem State.recordError_pc (e : MachineError) : (s.recordError e).pc = s.pc := rfl
@[simp] theorem State.recordError_sp (e : MachineError) : (s.recordError e).sp = s.sp := rfl
@[simp] theorem State.recordError_stack (e : MachineError) :
    (s.recordError e).stack = s.stack := rfl
@[simp] theorem State.recordError_dt (e : MachineError) : (s.recordError e).dt = s.dt := rfl
@[simp] theorem State.recordError_st (e : MachineError) : (s.recordError e).st = s.st := rfl
@[simp] theorem State.recordError_mode (e : MachineError) : (s.recordError e).mode = s.mode := rfl
@[simp] theorem State.recordError_fb (e : MachineError) : (s.recordError e).fb = s.fb := rfl
@[simp] theorem State.recordError_key (e : MachineError) : (s.recordError e).key = s.key := rfl
@[simp] theorem State.recordError_params (e : MachineError) :
    (s.recordError e).params = s.params := rfl
@[simp] theorem State.recordError_draws (e : MachineError) :
    (s.recordError e).draws = s.draws := rfl
@[simp] theorem State.recordError_errors (e : MachineError) :
    (s.recordError e).errors = e :: s.errors := rfl

/-! ### `writeByte` -/

@[simp] theorem State.writeByte_mem (a : Nat) (b : Byte) :
    (s.writeByte a b).mem = Memory.write s.params.font s.mem a b := rfl
@[simp] theorem State.writeByte_v (a : Nat) (b : Byte) : (s.writeByte a b).v = s.v := rfl
@[simp] theorem State.writeByte_ireg (a : Nat) (b : Byte) : (s.writeByte a b).ireg = s.ireg := rfl
@[simp] theorem State.writeByte_pc (a : Nat) (b : Byte) : (s.writeByte a b).pc = s.pc := rfl
@[simp] theorem State.writeByte_sp (a : Nat) (b : Byte) : (s.writeByte a b).sp = s.sp := rfl
@[simp] theorem State.writeByte_stack (a : Nat) (b : Byte) :
    (s.writeByte a b).stack = s.stack := rfl
@[simp] theorem State.writeByte_dt (a : Nat) (b : Byte) : (s.writeByte a b).dt = s.dt := rfl
@[simp] theorem State.writeByte_st (a : Nat) (b : Byte) : (s.writeByte a b).st = s.st := rfl
@[simp] theorem State.writeByte_mode (a : Nat) (b : Byte) : (s.writeByte a b).mode = s.mode := rfl
@[simp] theorem State.writeByte_fb (a : Nat) (b : Byte) : (s.writeByte a b).fb = s.fb := rfl
@[simp] theorem State.writeByte_key (a : Nat) (b : Byte) : (s.writeByte a b).key = s.key := rfl
@[simp] theorem State.writeByte_params (a : Nat) (b : Byte) :
    (s.writeByte a b).params = s.params := rfl
@[simp] theorem State.writeByte_draws (a : Nat) (b : Byte) :
    (s.writeByte a b).draws = s.draws := rfl
@[simp] theorem State.writeByte_errors (a : Nat) (b : Byte) :
    (s.writeByte a b).errors = s.errors := rfl

/-! ### `tickTimers` -/

@[simp] theorem State.tickTimers_mem : (s.tickTimers).mem = s.mem := rfl
@[simp] theorem State.tickTimers_v : (s.tickTimers).v = s.v := rfl
@[simp] theorem State.tickTimers_ireg : (s.tickTimers).ireg = s.ireg := rfl
@[simp] theorem State.tickTimers_pc : (s.tickTimers).pc = s.pc := rfl
@[simp] theorem State.tickTimers_sp : (s.tickTimers).sp = s.sp := rfl
@[simp] theorem State.tickTimers_stack : (s.tickTimers).stack = s.stack := rfl
@[simp] theorem State.tickTimers_dt : (s.tickTimers).dt = tickDown s.dt := rfl
@[simp] theorem State.tickTimers_st : (s.tickTimers).st = tickDown s.st := rfl
@[simp] theorem State.tickTimers_mode : (s.tickTimers).mode = s.mode := rfl
@[simp] theorem State.tickTimers_fb : (s.tickTimers).fb = s.fb := rfl
@[simp] theorem State.tickTimers_key : (s.tickTimers).key = s.key := rfl
@[simp] theorem State.tickTimers_params : (s.tickTimers).params = s.params := rfl
@[simp] theorem State.tickTimers_draws : (s.tickTimers).draws = s.draws := rfl
@[simp] theorem State.tickTimers_errors : (s.tickTimers).errors = s.errors := rfl

/-! ### `rand` -/

@[simp] theorem State.rand_byte : s.rand.1 = Config.randomByte s.draws := rfl
@[simp] theorem State.rand_mem : s.rand.2.mem = s.mem := rfl
@[simp] theorem State.rand_v : s.rand.2.v = s.v := rfl
@[simp] theorem State.rand_ireg : s.rand.2.ireg = s.ireg := rfl
@[simp] theorem State.rand_pc : s.rand.2.pc = s.pc := rfl
@[simp] theorem State.rand_sp : s.rand.2.sp = s.sp := rfl
@[simp] theorem State.rand_stack : s.rand.2.stack = s.stack := rfl
@[simp] theorem State.rand_dt : s.rand.2.dt = s.dt := rfl
@[simp] theorem State.rand_st : s.rand.2.st = s.st := rfl
@[simp] theorem State.rand_mode : s.rand.2.mode = s.mode := rfl
@[simp] theorem State.rand_fb : s.rand.2.fb = s.fb := rfl
@[simp] theorem State.rand_key : s.rand.2.key = s.key := rfl
@[simp] theorem State.rand_params : s.rand.2.params = s.params := rfl
@[simp] theorem State.rand_draws : s.rand.2.draws = s.draws + 1 := rfl
@[simp] theorem State.rand_errors : s.rand.2.errors = s.errors := rfl

/-! ### `hostReset` -/

@[simp] theorem State.hostReset_mem : s.hostReset.mem = State.reset.mem := rfl
@[simp] theorem State.hostReset_v : s.hostReset.v = State.reset.v := rfl
@[simp] theorem State.hostReset_ireg : s.hostReset.ireg = State.reset.ireg := rfl
@[simp] theorem State.hostReset_pc : s.hostReset.pc = State.reset.pc := rfl
@[simp] theorem State.hostReset_sp : s.hostReset.sp = State.reset.sp := rfl
@[simp] theorem State.hostReset_stack : s.hostReset.stack = State.reset.stack := rfl
@[simp] theorem State.hostReset_dt : s.hostReset.dt = State.reset.dt := rfl
@[simp] theorem State.hostReset_st : s.hostReset.st = State.reset.st := rfl
@[simp] theorem State.hostReset_mode : s.hostReset.mode = State.reset.mode := rfl
@[simp] theorem State.hostReset_fb : s.hostReset.fb = State.reset.fb := rfl
@[simp] theorem State.hostReset_key : s.hostReset.key = State.reset.key := rfl
@[simp] theorem State.hostReset_params : s.hostReset.params = s.params := rfl
@[simp] theorem State.hostReset_draws : s.hostReset.draws = s.draws := rfl
@[simp] theorem State.hostReset_errors : s.hostReset.errors = State.reset.errors := rfl

end Sys2Proof.Machine
end

