-- ==== Sys2Proof/Laws/Memory.lean ====
section
/-!
SUPPORT. The laws of memory: a read after a write, the canonical form and that every write keeps it,
and that equal contents are equal data (spec/20_memory.md R40 to R44, R50).
-/

namespace Sys2Proof.Machine

variable {font : Font}

theorem Memory.read_of_all_gt {m : Memory} {a : Nat} (h : m.all (fun c => decide (a < c.1)) = true) :
    Memory.read font m a = Memory.unlisted font a := by
  induction m with
  | nil => rfl
  | cons c m ih =>
    obtain ⟨b, u⟩ := c
    simp only [List.all_cons, Bool.and_eq_true, decide_eq_true_eq] at h
    simp only [Memory.read]
    rw [if_neg (by omega), ih h.2]

theorem Memory.wf_cons {a : Nat} {w : Byte} {m : Memory} :
    Memory.wf font ((a, w) :: m) = true ↔
      a < memSize ∧ w ≠ Memory.unlisted font a ∧ m.all (fun c => decide (a < c.1)) = true ∧
        Memory.wf font m = true := by
  simp [Memory.wf, and_assoc]

/-- A read after a write at the same address gives the byte written. -/
theorem Memory.read_write_same {m : Memory} (h : Memory.wf font m = true) (a : Nat) (w : Byte) :
    Memory.read font (Memory.write font m a w) a = w := by
  induction m with
  | nil =>
    simp only [Memory.write]
    split <;> simp_all [Memory.read]
  | cons c m ih =>
    obtain ⟨b, u⟩ := c
    obtain ⟨-, -, hall, hm⟩ := Memory.wf_cons.1 h
    simp only [Memory.write]
    split
    · split
      · rename_i hab hw
        rw [Memory.read_of_all_gt, hw]
        simp only [List.all_cons, Bool.and_eq_true, decide_eq_true_eq]
        refine ⟨hab, List.all_eq_true.2 fun c hc => ?_⟩
        have := List.all_eq_true.1 hall c hc
        simp only [decide_eq_true_eq] at this ⊢
        omega
      · simp [Memory.read]
    · split
      · rename_i hab
        subst hab
        split
        · rename_i hw
          rw [Memory.read_of_all_gt hall, hw]
        · simp [Memory.read]
      · rename_i hba hne
        simp only [Memory.read]
        rw [if_neg (fun e => hne e.symm), ih hm]

/-- A write leaves every other address alone; no canonical form is needed. -/
theorem Memory.read_write_other {m : Memory} {a b : Nat} (w : Byte) (hab : b ≠ a) :
    Memory.read font (Memory.write font m a w) b = Memory.read font m b := by
  induction m with
  | nil =>
    simp only [Memory.write]
    split
    · rfl
    · simp [Memory.read, Ne.symm hab]
  | cons c m ih =>
    obtain ⟨d, u⟩ := c
    simp only [Memory.write]
    split
    · split
      · rfl
      · simp [Memory.read, Ne.symm hab]
    · split
      · rename_i had
        subst had
        split <;> simp [Memory.read, Ne.symm hab]
      · simp only [Memory.read, ih]

theorem Memory.all_gt_write {m : Memory} {c a : Nat} (w : Byte) (hca : c < a)
    (h : m.all (fun e => decide (c < e.1)) = true) :
    (Memory.write font m a w).all (fun e => decide (c < e.1)) = true := by
  induction m with
  | nil =>
    simp only [Memory.write]
    split <;> simp [hca]
  | cons e m ih =>
    obtain ⟨d, u⟩ := e
    simp only [List.all_cons, Bool.and_eq_true, decide_eq_true_eq] at h
    simp only [Memory.write]
    split
    · split
      · simpa using h
      · simpa [hca] using h
    · split
      · split
        · exact h.2
        · simpa [hca] using h.2
      · simpa [h.1] using ih h.2

/-- A write inside the address space keeps the canonical form. -/
theorem Memory.write_wf {m : Memory} {a : Nat} (w : Byte) (ha : a < memSize)
    (h : Memory.wf font m = true) : Memory.wf font (Memory.write font m a w) = true := by
  induction m with
  | nil =>
    simp only [Memory.write]
    split
    · rfl
    · rename_i hw
      exact Memory.wf_cons.2 ⟨ha, hw, rfl, rfl⟩
  | cons e m ih =>
    obtain ⟨d, u⟩ := e
    obtain ⟨hd, hu, hall, hm⟩ := Memory.wf_cons.1 h
    simp only [Memory.write]
    split
    · rename_i had
      split
      · exact h
      · rename_i hw
        refine Memory.wf_cons.2 ⟨ha, hw, ?_, h⟩
        simp only [List.all_cons, Bool.and_eq_true, decide_eq_true_eq]
        refine ⟨had, List.all_eq_true.2 fun c hc => ?_⟩
        have := List.all_eq_true.1 hall c hc
        simp only [decide_eq_true_eq] at this ⊢
        omega
    · split
      · rename_i had
        subst had
        split
        · exact hm
        · rename_i hw
          exact Memory.wf_cons.2 ⟨ha, hw, hall, hm⟩
      · exact Memory.wf_cons.2 ⟨hd, hu, Memory.all_gt_write w (by omega) hall, ih hm⟩

/-- An address outside the address space is never listed. -/
theorem Memory.all_lt_of_wf {m : Memory} (h : Memory.wf font m = true) :
    ∀ c ∈ m, c.1 < memSize := by
  induction m with
  | nil => simp
  | cons e m ih =>
    obtain ⟨d, u⟩ := e
    obtain ⟨hd, -, -, hm⟩ := Memory.wf_cons.1 h
    simpa using ⟨hd, fun a b hab => ih hm (a, b) hab⟩

/-- Two canonical memories that read the same at every address are the same list. -/
theorem Memory.eq_of_read_eq {m m' : Memory} (h : Memory.wf font m = true)
    (h' : Memory.wf font m' = true) (hr : ∀ a, Memory.read font m a = Memory.read font m' a) :
    m = m' := by
  induction m generalizing m' with
  | nil =>
    cases m' with
    | nil => rfl
    | cons e m' =>
      obtain ⟨d, u⟩ := e
      have := hr d
      obtain ⟨-, hu, -, -⟩ := Memory.wf_cons.1 h'
      simp only [Memory.read, if_true] at this
      exact absurd this.symm hu
  | cons e m ih =>
    obtain ⟨d, u⟩ := e
    obtain ⟨-, hu, hall, hm⟩ := Memory.wf_cons.1 h
    cases m' with
    | nil =>
      have := hr d
      simp only [Memory.read, if_true] at this
      exact absurd this hu
    | cons e' m' =>
      obtain ⟨d', u'⟩ := e'
      obtain ⟨-, hu', hall', hm'⟩ := Memory.wf_cons.1 h'
      have gt_of : ∀ {x : Nat} {l : Memory} {y : Nat}, x < y →
          l.all (fun c => decide (y < c.1)) = true → l.all (fun c => decide (x < c.1)) = true := by
        intro x l y hxy hl
        refine List.all_eq_true.2 fun c hc => ?_
        have := List.all_eq_true.1 hl c hc
        simp only [decide_eq_true_eq] at this ⊢
        omega
      have hd : d = d' := by
        rcases Nat.lt_trichotomy d d' with hlt | heq | hgt
        · have h1 := hr d
          simp only [Memory.read, if_true] at h1
          rw [if_neg (by omega), Memory.read_of_all_gt (gt_of hlt hall')] at h1
          exact absurd h1 hu
        · exact heq
        · have h1 := hr d'
          simp only [Memory.read, if_true] at h1
          rw [if_neg (by omega), Memory.read_of_all_gt (gt_of hgt hall)] at h1
          exact absurd h1.symm hu'
      subst hd
      have hv : u = u' := by
        have h1 := hr d
        simpa [Memory.read] using h1
      subst hv
      congr 1
      refine ih hm hm' fun a => ?_
      by_cases had : d = a
      · subst had
        rw [Memory.read_of_all_gt hall, Memory.read_of_all_gt hall']
      · have h1 := hr a
        simpa only [Memory.read, if_neg had] using h1

/-! ## Memory of the state -/

theorem State.readByte_writeByte_same {s : State} (h : Memory.wf s.params.font s.mem = true) (a : Nat)
    (b : Byte) : (s.writeByte a b).readByte a = b :=
  Memory.read_write_same h a b

theorem State.readByte_writeByte_other (s : State) {a c : Nat} (b : Byte) (h : c ≠ a) :
    (s.writeByte a b).readByte c = s.readByte c :=
  Memory.read_write_other b h

theorem State.writeByte_wf {s : State} {a : Nat} (b : Byte) (ha : a < memSize)
    (h : Memory.wf s.params.font s.mem = true) :
    Memory.wf (s.writeByte a b).params.font (s.writeByte a b).mem = true :=
  Memory.write_wf b ha h

/-- Storing bytes changes memory and nothing else. -/
theorem State.writeBytes_eq (s : State) (a : Nat) (bs : List Byte) :
    s.writeBytes a bs = { s with mem := (s.writeBytes a bs).mem } := by
  induction bs generalizing s a with
  | nil => rfl
  | cons b bs ih =>
    have h := ih (s.writeByte a b) (a + 1)
    show (s.writeByte a b).writeBytes (a + 1) bs = _
    rw [h]
    rfl

theorem State.writeBytes_params (s : State) (a : Nat) (bs : List Byte) :
    (s.writeBytes a bs).params = s.params := by rw [State.writeBytes_eq]

/-- Storing bytes leaves every address outside their range alone. -/
theorem State.readByte_writeBytes_outside (s : State) {a c : Nat} (bs : List Byte)
    (h : c < a ∨ a + bs.length ≤ c) : (s.writeBytes a bs).readByte c = s.readByte c := by
  induction bs generalizing s a with
  | nil => rfl
  | cons b bs ih =>
    simp only [List.length_cons] at h
    show ((s.writeByte a b).writeBytes (a + 1) bs).readByte c = _
    rw [ih (s.writeByte a b) (by omega), State.readByte_writeByte_other s b (by omega)]

/-- Storing bytes inside the address space keeps the canonical form. -/
theorem State.writeBytes_wf {s : State} {a : Nat} (bs : List Byte) (ha : a + bs.length ≤ memSize)
    (h : Memory.wf s.params.font s.mem = true) :
    Memory.wf (s.writeBytes a bs).params.font (s.writeBytes a bs).mem = true := by
  induction bs generalizing s a with
  | nil => exact h
  | cons b bs ih =>
    simp only [List.length_cons] at ha
    exact ih (s := s.writeByte a b) (a := a + 1) (by omega) (State.writeByte_wf b (by omega) h)

/-- Byte `k` of the bytes stored is read back at the `k`-th address. -/
theorem State.readByte_writeBytes_inside {s : State} {a : Nat} (bs : List Byte)
    (ha : a + bs.length ≤ memSize) (h : Memory.wf s.params.font s.mem = true) (k : Nat)
    (hk : k < bs.length) : (s.writeBytes a bs).readByte (a + k) = bs[k] := by
  induction bs generalizing s a k with
  | nil => simp at hk
  | cons b bs ih =>
    simp only [List.length_cons] at ha hk
    show ((s.writeByte a b).writeBytes (a + 1) bs).readByte (a + k) = _
    cases k with
    | zero =>
      rw [State.readByte_writeBytes_outside _ bs (by omega)]
      exact State.readByte_writeByte_same h a b
    | succ k =>
      have := ih (s := s.writeByte a b) (a := a + 1) (by omega)
        (State.writeByte_wf b (by omega) h) k (by omega)
      simpa [Nat.add_assoc, Nat.add_comm 1 k] using this

/-- Reset memory is canonical. -/
theorem Memory.reset_wf : Memory.wf State.reset.params.font State.reset.mem = true := rfl

end Sys2Proof.Machine
end

