-- ==== Sys2Proof/Laws/Ops.lean ====
section
/-!
SUPPORT. One lemma per shared operation that says everything it can do, to be cited where the
operation is called; and the inversion of `step`.
-/

namespace Sys2Proof.Machine

/-! ## Bounds, reads and writes (R41, R42, R44) -/

theorem inBounds_iff {a n : Nat} : inBounds a n = true ↔ n = 0 ∨ a + n ≤ memSize := by
  simp [inBounds]

theorem State.readBytes_length (s : State) (a n : Nat) : (s.readBytes a n).length = n := by
  simp [State.readBytes]

theorem State.readBytes_getD (s : State) {a n k : Nat} (h : k < n) :
    (s.readBytes a n).getD k 0 = s.readByte (a + k) := by
  simp [State.readBytes, List.getD, h]

/-- A read delivers all its bytes or is a BoundsError carrying the base address. -/
theorem State.memRead_cases (s : State) (cause : BoundsCause) (a n : Nat) :
    ((n = 0 ∨ a + n ≤ memSize) ∧ s.memRead cause a n = .ok (s.readBytes a n)) ∨
      (n ≠ 0 ∧ memSize < a + n ∧ s.memRead cause a n = .error (.boundsError cause a)) := by
  unfold State.memRead
  by_cases h : inBounds a n = true
  · exact .inl ⟨inBounds_iff.1 h, if_pos h⟩
  · rw [inBounds_iff] at h
    refine .inr ⟨by omega, by omega, if_neg ?_⟩
    rw [inBounds_iff]
    exact h

/-- A write stores all its bytes or is a BoundsError carrying the base address. -/
theorem State.memWrite_cases (s : State) (a : Nat) (bs : List Byte) :
    ((bs = [] ∨ a + bs.length ≤ memSize) ∧ s.memWrite a bs = .ok (s.writeBytes a bs)) ∨
      (bs ≠ [] ∧ memSize < a + bs.length ∧
        s.memWrite a bs = .error (.boundsError .memWrite a)) := by
  unfold State.memWrite
  by_cases h : inBounds a bs.length = true
  · refine .inl ⟨?_, if_pos h⟩
    simpa using inBounds_iff.1 h
  · rw [inBounds_iff] at h
    refine .inr ⟨fun e => h (.inl (by simp [e])), by omega, if_neg ?_⟩
    rw [inBounds_iff]
    exact h

theorem State.takeError_eq (s : State) (e : MachineError) :
    s.takeError e = .next (s.recordError e) := rfl

/-- Storing at I: all the bytes, or the error and nothing. -/
theorem State.storeAtIndex_cases (s : State) (bs : List Byte) (hbs : bs ≠ []) :
    (s.base + bs.length ≤ memSize ∧ s.storeAtIndex bs = .next (s.writeBytes s.base bs)) ∨
      (memSize < s.base + bs.length ∧
        s.storeAtIndex bs = .next (s.recordError (.boundsError .memWrite s.base))) := by
  unfold State.storeAtIndex
  rcases s.memWrite_cases s.base bs with ⟨h, e⟩ | ⟨-, h, e⟩
  · rw [e]
    exact .inl ⟨h.resolve_left hbs, rfl⟩
  · rw [e]
    exact .inr ⟨h, rfl⟩

/-! ## The stack (R20, R21) -/

theorem State.push_cases (s : State) (w : Word) :
    (∃ h : s.sp.toNat < 16,
        s.push w = .ok { s with stack := s.stack.set s.sp.toNat w h, sp := s.sp + 1 }) ∨
      (16 ≤ s.sp.toNat ∧ s.push w = .error (.boundsError .stackOverflow s.sp.toNat)) := by
  unfold State.push
  by_cases h : s.sp.toNat < stackDepth
  · exact .inl ⟨h, dif_pos h⟩
  · exact .inr ⟨Nat.le_of_not_lt h, dif_neg h⟩

theorem State.pop_cases (s : State) (k : Word → State → Result) :
    (s.sp = 0 ∧ s.pop k = .next (s.recordError (.boundsError .stackUnderflow 0))) ∨
      (∃ h : s.sp.toNat - 1 < 16, s.sp ≠ 0 ∧
        s.pop k = k (s.stack[s.sp.toNat - 1]'h) { s with sp := s.sp - 1 }) ∨
      (16 < s.sp.toNat ∧ s.pop k = .fault .stackPointerOutOfRange) := by
  unfold State.pop
  by_cases h0 : s.sp = 0
  · refine .inl ⟨h0, ?_⟩
    rw [if_pos h0, State.takeError_eq, h0]
    rfl
  · by_cases h : s.sp.toNat - 1 < stackDepth
    · exact .inr (.inl ⟨h, h0, by rw [if_neg h0, dif_pos h]⟩)
    · refine .inr (.inr ⟨?_, by rw [if_neg h0, dif_neg h]⟩)
      have : stackDepth = 16 := rfl
      omega

/-! ## Operands (R84, R118) -/

theorem State.skipIf_true (s : State) {c : Bool} (h : c = true) :
    s.skipIf c = .next (s.setPc (s.pc + 2)) := by subst h; rfl

theorem State.skipIf_false (s : State) {c : Bool} (h : c = false) : s.skipIf c = .next s := by
  subst h; rfl

theorem State.keyOperand_cases (s : State) (x : Reg) :
    (∃ h : s.v[x].toNat < 16, s.keyOperand x = .ok ⟨s.v[x].toNat, h⟩) ∨
      (16 ≤ s.v[x].toNat ∧ s.keyOperand x = .error (.boundsError .keyIndex s.v[x].toNat)) := by
  unfold State.keyOperand
  by_cases h : s.v[x].toNat < 16
  · exact .inl ⟨h, dif_pos h⟩
  · exact .inr ⟨Nat.le_of_not_lt h, dif_neg h⟩

theorem State.regPrefix_length (s : State) (x : Reg) : (s.regPrefix x).length = x.val + 1 := by
  simp [State.regPrefix]

theorem State.regPrefix_getElem (s : State) (x k : Reg) (h : k ≤ x) :
    (s.regPrefix x)[k.val]'(by rw [State.regPrefix_length, Fin.le_def] at *; omega) = s.v[k] := by
  simp [State.regPrefix]

theorem State.loadPrefix_getElem (s : State) (x k : Reg) (bs : List Byte) :
    (s.loadPrefix x bs).v[k] = if k ≤ x then bs.getD k.val 0 else s.v[k] := by
  simp

/-! ## The latch (R30, R120, R121) -/

theorem mem_allKeys (k : Reg) : k ∈ allKeys := by revert k; decide

theorem State.lowestPressed_none {s : State} :
    s.lowestPressed = none ↔ ∀ k : Reg, s.key[k] = false := by
  simp only [State.lowestPressed, List.find?_eq_none, Bool.not_eq_true]
  exact ⟨fun h k => h k (mem_allKeys k), fun h k _ => h k⟩

theorem allKeys_sorted : allKeys.Pairwise (· < ·) := by decide

/-- In an ascending list, the first element with a property is the least one with it. -/
theorem find_least {p : Reg → Bool} {k : Reg} {l : List Reg} (hp : l.Pairwise (· < ·)) (hk : k ∈ l) :
    l.find? p = some k ↔ p k = true ∧ ∀ j ∈ l, j < k → p j = false := by
  induction l with
  | nil => cases hk
  | cons a l ih =>
    obtain ⟨ha, hp⟩ := List.pairwise_cons.1 hp
    by_cases hpa : p a = true
    · rw [List.find?_cons_of_pos hpa, Option.some_inj]
      constructor
      · rintro rfl
        exact ⟨hpa, fun j hj hja => by
          rcases List.mem_cons.1 hj with rfl | hj
          · exact absurd hja (lt_irrefl _)
          · exact absurd (ha j hj) (not_lt.2 hja.le)⟩
      · rintro ⟨-, hlow⟩
        rcases List.mem_cons.1 hk with rfl | hk
        · rfl
        · simp [hlow a List.mem_cons_self (ha k hk)] at hpa
    · rw [List.find?_cons_of_neg hpa]
      have hkl : p k = true → k ∈ l := fun h => by
        rcases List.mem_cons.1 hk with rfl | hk
        · exact absurd h hpa
        · exact hk
      constructor
      · intro h
        obtain ⟨hpk, hlow⟩ := (ih hp (List.mem_of_find?_eq_some h)).1 h
        refine ⟨hpk, fun j hj hjk => ?_⟩
        rcases List.mem_cons.1 hj with rfl | hj
        · simpa using hpa
        · exact hlow j hj hjk
      · rintro ⟨hpk, hlow⟩
        exact (ih hp (hkl hpk)).2 ⟨hpk, fun j hj => hlow j (List.mem_cons_of_mem a hj)⟩

/-- The key delivered is the least one latched. -/
theorem State.lowestPressed_some {s : State} {k : Reg} :
    s.lowestPressed = some k ↔ s.key[k] = true ∧ ∀ j : Reg, j < k → s.key[j] = false := by
  unfold State.lowestPressed
  rw [find_least allKeys_sorted (mem_allKeys k)]
  exact ⟨fun h => ⟨h.1, fun j => h.2 j (mem_allKeys j)⟩, fun h => ⟨h.1, fun j _ => h.2 j⟩⟩

theorem State.applyLatchEffect_eq (s : State) (k0 : Reg) :
    s.applyLatchEffect k0 = { s with key := (s.applyLatchEffect k0).key } := by
  unfold State.applyLatchEffect
  cases s.params.latchEffect <;> rfl

theorem State.applyLatchEffect_key (s : State) (k0 k : Reg) :
    (s.applyLatchEffect k0).key[k] =
      match s.params.latchEffect with
      | .none => s.key[k]
      | .consumed => if k0 = k then false else s.key[k]
      | .all => false := by
  unfold State.applyLatchEffect
  cases s.params.latchEffect
  · rfl
  · simp only [State.setKey_key, Fin.getElem_fin, Vector.getElem_set, Fin.val_inj]
  · simp

/-- The deferred register write and the latch effect change V and KEY only. -/
theorem State.deliverKey_eq (s : State) (t k0 : Reg) :
    s.deliverKey t k0 =
      { s with v := s.v.set t (BitVec.ofNat 8 k0.val), key := (s.applyLatchEffect k0).key } := by
  unfold State.deliverKey State.applyLatchEffect State.setV
  cases h : s.params.latchEffect <;> rfl

/-! ## Fetch and step (R30, R43, R45) -/

theorem State.fetchWord_cases (s : State) :
    (s.pc.toNat ≤ 4094 ∧
        s.fetchWord = .ok (beWord (s.readByte s.pc.toNat) (s.readByte (s.pc.toNat + 1)))) ∨
      (4095 ≤ s.pc.toNat ∧ s.fetchWord = .error (.boundsError .fetch s.pc.toNat)) := by
  unfold State.fetchWord
  have hm : memSize = 4096 := rfl
  rcases s.memRead_cases .fetch s.pc.toNat 2 with ⟨h, e⟩ | ⟨-, h, e⟩
  · refine .inl ⟨by omega, ?_⟩
    rw [e]
    simp [State.readBytes, List.range_succ]
  · exact .inr ⟨by omega, by rw [e]⟩

theorem stepAwaiting_cases (t : Reg) (s : State) :
    ((∀ k : Reg, s.key[k] = false) ∧ stepAwaiting t s = .next s) ∨
      ∃ k0 : Reg, s.lowestPressed = some k0 ∧
        stepAwaiting t s = .next ((s.deliverKey t k0).advancePc.setMode .running) := by
  unfold stepAwaiting
  cases h : s.lowestPressed with
  | none => exact .inl ⟨State.lowestPressed_none.1 h, rfl⟩
  | some k0 => exact .inr ⟨k0, rfl, rfl⟩

/-- The inversion of `step`: a wait, a failed fetch, a word that does not decode, or an instruction. -/
theorem step_cases (s : State) :
    (∃ t, s.mode = .awaitingKey t ∧ step s = stepAwaiting t s) ∨
      (s.mode = .running ∧ 4095 ≤ s.pc.toNat ∧
        step s = .next (s.recordError (.boundsError .fetch s.pc.toNat))) ∨
      (∃ w f, s.mode = .running ∧ s.pc.toNat ≤ 4094 ∧ s.fetchWord = .ok w ∧
        decodeWord w = .error f ∧ step s = .next (s.advancePc.recordError (decodeErrorOf w))) ∨
      (∃ w i, s.mode = .running ∧ s.pc.toNat ≤ 4094 ∧ s.fetchWord = .ok w ∧
        decodeWord w = .ok i ∧ step s = exec i s.advancePc) := by
  unfold step
  cases hm : s.mode with
  | awaitingKey t => exact .inl ⟨t, rfl, rfl⟩
  | running =>
    rcases s.fetchWord_cases with ⟨hpc, e⟩ | ⟨hpc, e⟩
    · cases hd : decodeWord (beWord (s.readByte s.pc.toNat) (s.readByte (s.pc.toNat + 1))) with
      | error f =>
        refine .inr (.inr (.inl ⟨_, f, rfl, hpc, e, hd, ?_⟩))
        simp only [e, hd]
        rfl
      | ok i =>
        refine .inr (.inr (.inr ⟨_, i, rfl, hpc, e, hd, ?_⟩))
        simp only [e, hd]
    · refine .inr (.inl ⟨rfl, hpc, ?_⟩)
      simp only [e]
      rfl

end Sys2Proof.Machine
end

