-- ==== Sys2Proof/Laws/Frames.lean ====
section
/-!
SUPPORT. What the updates leave unchanged, in the terms of Safety.lean.
-/

namespace Sys2Proof.Machine

/-- Memory reads the same where the list and the glyph table are the same. -/
theorem State.sameMemory_of_eq {s t : State} (hm : t.mem = s.mem) (hp : t.params = s.params) :
    s.SameMemory t := by
  intro a
  unfold State.readByte
  rw [hm, hp]

/-- A register write changes one register and nothing else. -/
theorem State.onlyVx_setV (s : State) (x : Reg) (b : Byte) : s.OnlyVx x b (s.setV x b) := by
  refine ⟨by simp, fun k hk => ?_, rfl, State.sameMemory_of_eq rfl rfl⟩
  have : (x : Nat) ≠ k := fun e => hk (Fin.ext e.symm)
  simp [this]

/-- Writing a result and then a flag gives the three cases of R102. -/
theorem State.resultAndFlag_setResultAndFlag (s : State) (x : Reg) {b : Byte} {r : Nat} (f : Bool)
    (hr : b.toNat = r) : s.ResultAndFlag x r f (s.setResultAndFlag x b f) := by
  refine ⟨fun hx => ?_, ?_, fun k hk hk' => ?_, rfl, State.sameMemory_of_eq rfl rfl⟩
  · have : (15 : Nat) ≠ x := fun e => hx (Fin.ext e.symm)
    simpa [this] using hr
  · cases f <;> simp [flagByte]
  · have h1 : (x : Nat) ≠ k := fun e => hk (Fin.ext e.symm)
    have h2 : (15 : Nat) ≠ k := fun e => hk' (Fin.ext e.symm)
    simp [h1, h2]

/-- Loading the registers V0 to Vx changes V and nothing else. -/
theorem State.onlyV_loadPrefix (s : State) (x : Reg) (bs : List Byte) :
    s.OnlyV (s.loadPrefix x bs) :=
  ⟨by rfl, State.sameMemory_of_eq rfl rfl⟩

/-- Storing bytes in range changes those bytes and nothing else. -/
theorem State.onlyBytes_writeBytes {s : State} {a : Nat} {bs : List Byte}
    (ha : a + bs.length ≤ memSize) (h : Memory.wf s.params.font s.mem = true) :
    s.OnlyBytes a bs (s.writeBytes a bs) := by
  refine ⟨fun k hk => ?_, fun c hc => State.readByte_writeBytes_outside s bs hc,
    State.writeBytes_eq s a bs⟩
  rw [State.readByte_writeBytes_inside bs ha h k hk, List.getD_eq_getElem _ _ hk]

/-- The byte at any address after a store in range. -/
theorem State.readByte_of_onlyBytes {s t : State} {a : Nat} {bs : List Byte} (h : s.OnlyBytes a bs t)
    (c : Nat) : t.readByte c = s.byteAfterStore a bs c := by
  unfold State.byteAfterStore
  split
  · rename_i hc
    have := h.1 (c - a) (by omega)
    rwa [show a + (c - a) = c by omega] at this
  · exact h.2.1 c (by omega)

/-- The next fetch after a store in range reads the stored bytes (R55). -/
theorem State.fetchWord_of_onlyBytes {s t : State} {a : Nat} {bs : List Byte}
    (h : s.OnlyBytes a bs t) (hp : s.pc.toNat ≤ 4094) :
    t.fetchWord = .ok (s.wordAfterStore a bs) := by
  have hpc : t.pc = s.pc := by rw [h.2.2]
  rcases t.fetchWord_cases with ⟨_, e⟩ | ⟨h1, _⟩
  · rw [e, State.readByte_of_onlyBytes h, State.readByte_of_onlyBytes h, hpc]
    rfl
  · rw [hpc] at h1
    omega

/-- The latch after the key is delivered. -/
theorem State.deliverKey_key (s : State) (t k0 k : Reg) :
    (s.deliverKey t k0).key[k] = s.keyAfterEffect k0 k := by
  rw [State.deliverKey_eq]
  show (s.applyLatchEffect k0).key[k] = _
  rw [State.applyLatchEffect_key]
  unfold State.keyAfterEffect
  cases s.params.latchEffect <;> simp [eq_comm]

/-- The least key latched, in the terms of Safety.lean. -/
theorem State.lowestPressed_iff_leastPressed {s : State} {k0 : Reg} :
    s.lowestPressed = some k0 ↔ s.LeastPressed k0 := State.lowestPressed_some

end Sys2Proof.Machine
end

