-- ==== Sys2Proof/Laws/PerInstr.lean ====
section
/-!
SUPPORT. Statements made per instruction. The family OpcodeMap: the encoded word of an instruction
matches its row of the opcode map, `w AND mask = match` (spec/30_encoding.md R66).
-/

namespace Sys2Proof.Laws

/-! ## The masks of the opcode map as arithmetic -/

theorem and_mask_family (w : Word) : w &&& 0xF000 = BitVec.ofNat 16 (4096 * (w.toNat / 4096)) := by
  have h : w &&& (0xF000 : Word) = (w >>> 12) <<< 12 := by
    apply BitVec.eq_of_getLsbD_eq
    intro k hk
    interval_cases k <;> simp
  apply BitVec.eq_of_toNat_eq
  rw [h, BitVec.toNat_shiftLeft, BitVec.toNat_ushiftRight, Nat.shiftLeft_eq,
    Nat.shiftRight_eq_div_pow, BitVec.toNat_ofNat, Nat.mul_comm]

theorem and_mask_last (w : Word) : w &&& 0x000F = BitVec.ofNat 16 (w.toNat % 16) := by
  apply BitVec.eq_of_toNat_eq
  rw [BitVec.toNat_and, BitVec.toNat_ofNat]
  have : (0x000F : Word).toNat = 2 ^ 4 - 1 := rfl
  rw [this, Nat.and_two_pow_sub_one_eq_mod]
  omega

theorem and_mask_low (w : Word) : w &&& 0x00FF = BitVec.ofNat 16 (w.toNat % 256) := by
  apply BitVec.eq_of_toNat_eq
  rw [BitVec.toNat_and, BitVec.toNat_ofNat]
  have : (0x00FF : Word).toNat = 2 ^ 8 - 1 := rfl
  rw [this, Nat.and_two_pow_sub_one_eq_mod]
  omega

theorem and_mask_family_last (w : Word) :
    w &&& 0xF00F = BitVec.ofNat 16 (4096 * (w.toNat / 4096)) ||| BitVec.ofNat 16 (w.toNat % 16) := by
  rw [← and_mask_family, ← and_mask_last, ← BitVec.and_or_distrib_left]
  rfl

theorem and_mask_family_low (w : Word) :
    w &&& 0xF0FF = BitVec.ofNat 16 (4096 * (w.toNat / 4096)) ||| BitVec.ofNat 16 (w.toNat % 256) := by
  rw [← and_mask_family, ← and_mask_low, ← BitVec.and_or_distrib_left]
  rfl

/-- Format ADDR under the family mask. -/
theorem encodeAddr_and {op : Nat} (h : op < 16) (addr : Addr) :
    encodeAddr op addr &&& 0xF000 = BitVec.ofNat 16 (4096 * op) := by
  have := addr.isLt
  rw [and_mask_family, encodeAddr_toNat h, show (4096 * op + addr.toNat) / 4096 = op by omega]

/-- Format XNN under the family mask. -/
theorem encodeXNN_and {op : Nat} (h : op < 16) (x : Reg) (nn : Byte) :
    encodeXNN op x nn &&& 0xF000 = BitVec.ofNat 16 (4096 * op) := by
  have := nn.isLt
  have := x.isLt
  rw [and_mask_family, encodeXNN_toNat h,
    show (4096 * op + 256 * x.val + nn.toNat) / 4096 = op by omega]

/-- Format X under the mask of its two sub-opcode nibbles. -/
theorem encodeXNN_and_low {op : Nat} (h : op < 16) (x : Reg) (nn : Byte) :
    encodeXNN op x nn &&& 0xF0FF = BitVec.ofNat 16 (4096 * op) ||| BitVec.ofNat 16 nn.toNat := by
  have := nn.isLt
  have := x.isLt
  rw [and_mask_family_low, encodeXNN_toNat h,
    show (4096 * op + 256 * x.val + nn.toNat) / 4096 = op by omega,
    show (4096 * op + 256 * x.val + nn.toNat) % 256 = nn.toNat by omega]

/-- Format XYN under the family mask. -/
theorem encodeXYN_and {op : Nat} (h : op < 16) (x y : Reg) (n : Fin 16) :
    encodeXYN op x y n &&& 0xF000 = BitVec.ofNat 16 (4096 * op) := by
  have := x.isLt
  have := y.isLt
  have := n.isLt
  rw [and_mask_family, encodeXYN_toNat h,
    show (4096 * op + 256 * x.val + 16 * y.val + n.val) / 4096 = op by omega]

/-- Format XY under the mask of its sub-opcode nibble. -/
theorem encodeXYN_and_last {op : Nat} (h : op < 16) (x y : Reg) (n : Fin 16) :
    encodeXYN op x y n &&& 0xF00F = BitVec.ofNat 16 (4096 * op) ||| BitVec.ofNat 16 n.val := by
  have := x.isLt
  have := y.isLt
  have := n.isLt
  rw [and_mask_family_last, encodeXYN_toNat h,
    show (4096 * op + 256 * x.val + 16 * y.val + n.val) / 4096 = op by omega,
    show (4096 * op + 256 * x.val + 16 * y.val + n.val) % 16 = n.val by omega]

/-! ## The family -/

/-- The encoded word selects the instruction's row of R66. -/
def OpcodeMap.Statement (i : Instr) : Prop := encode i &&& i.opcodeRow.1 = i.opcodeRow.2

theorem OpcodeMap.clearScreen : OpcodeMap.Statement .clearScreen :=
  rfl

theorem OpcodeMap.ret : OpcodeMap.Statement .ret :=
  rfl

theorem OpcodeMap.jump (addr : Addr) : OpcodeMap.Statement (.jump addr) :=
  encodeAddr_and (by decide) addr

theorem OpcodeMap.call (addr : Addr) : OpcodeMap.Statement (.call addr) :=
  encodeAddr_and (by decide) addr

theorem OpcodeMap.skipEqImm (x : Reg) (nn : Byte) : OpcodeMap.Statement (.skipEqImm x nn) :=
  encodeXNN_and (by decide) x nn

theorem OpcodeMap.skipNeqImm (x : Reg) (nn : Byte) : OpcodeMap.Statement (.skipNeqImm x nn) :=
  encodeXNN_and (by decide) x nn

theorem OpcodeMap.skipEqReg (x y : Reg) : OpcodeMap.Statement (.skipEqReg x y) :=
  encodeXYN_and_last (by decide) x y 0x0

theorem OpcodeMap.setImm (x : Reg) (nn : Byte) : OpcodeMap.Statement (.setImm x nn) :=
  encodeXNN_and (by decide) x nn

theorem OpcodeMap.addImm (x : Reg) (nn : Byte) : OpcodeMap.Statement (.addImm x nn) :=
  encodeXNN_and (by decide) x nn

theorem OpcodeMap.copy (x y : Reg) : OpcodeMap.Statement (.copy x y) :=
  encodeXYN_and_last (by decide) x y 0x0

theorem OpcodeMap.orReg (x y : Reg) : OpcodeMap.Statement (.orReg x y) :=
  encodeXYN_and_last (by decide) x y 0x1

theorem OpcodeMap.andReg (x y : Reg) : OpcodeMap.Statement (.andReg x y) :=
  encodeXYN_and_last (by decide) x y 0x2

theorem OpcodeMap.xorReg (x y : Reg) : OpcodeMap.Statement (.xorReg x y) :=
  encodeXYN_and_last (by decide) x y 0x3

theorem OpcodeMap.addReg (x y : Reg) : OpcodeMap.Statement (.addReg x y) :=
  encodeXYN_and_last (by decide) x y 0x4

theorem OpcodeMap.subReg (x y : Reg) : OpcodeMap.Statement (.subReg x y) :=
  encodeXYN_and_last (by decide) x y 0x5

theorem OpcodeMap.shiftRight (x : Reg) : OpcodeMap.Statement (.shiftRight x) :=
  encodeXYN_and_last (by decide) x 0 0x6

theorem OpcodeMap.subRegRev (x y : Reg) : OpcodeMap.Statement (.subRegRev x y) :=
  encodeXYN_and_last (by decide) x y 0x7

theorem OpcodeMap.shiftLeft (x : Reg) : OpcodeMap.Statement (.shiftLeft x) :=
  encodeXYN_and_last (by decide) x 0 0xE

theorem OpcodeMap.skipNeqReg (x y : Reg) : OpcodeMap.Statement (.skipNeqReg x y) :=
  encodeXYN_and_last (by decide) x y 0x0

theorem OpcodeMap.setIndex (addr : Addr) : OpcodeMap.Statement (.setIndex addr) :=
  encodeAddr_and (by decide) addr

theorem OpcodeMap.jumpOffset (addr : Addr) : OpcodeMap.Statement (.jumpOffset addr) :=
  encodeAddr_and (by decide) addr

theorem OpcodeMap.randAnd (x : Reg) (nn : Byte) : OpcodeMap.Statement (.randAnd x nn) :=
  encodeXNN_and (by decide) x nn

theorem OpcodeMap.draw (x y : Reg) (n : Fin 16) : OpcodeMap.Statement (.draw x y n) :=
  encodeXYN_and (by decide) x y n

theorem OpcodeMap.skipKeyPressed (x : Reg) : OpcodeMap.Statement (.skipKeyPressed x) :=
  encodeXNN_and_low (by decide) x 0x9E

theorem OpcodeMap.skipKeyNotPressed (x : Reg) : OpcodeMap.Statement (.skipKeyNotPressed x) :=
  encodeXNN_and_low (by decide) x 0xA1

theorem OpcodeMap.readDelay (x : Reg) : OpcodeMap.Statement (.readDelay x) :=
  encodeXNN_and_low (by decide) x 0x07

theorem OpcodeMap.awaitKey (x : Reg) : OpcodeMap.Statement (.awaitKey x) :=
  encodeXNN_and_low (by decide) x 0x0A

theorem OpcodeMap.setDelay (x : Reg) : OpcodeMap.Statement (.setDelay x) :=
  encodeXNN_and_low (by decide) x 0x15

theorem OpcodeMap.setSound (x : Reg) : OpcodeMap.Statement (.setSound x) :=
  encodeXNN_and_low (by decide) x 0x18

theorem OpcodeMap.addIndex (x : Reg) : OpcodeMap.Statement (.addIndex x) :=
  encodeXNN_and_low (by decide) x 0x1E

theorem OpcodeMap.fontAddress (x : Reg) : OpcodeMap.Statement (.fontAddress x) :=
  encodeXNN_and_low (by decide) x 0x29

theorem OpcodeMap.bcd (x : Reg) : OpcodeMap.Statement (.bcd x) :=
  encodeXNN_and_low (by decide) x 0x33

theorem OpcodeMap.storeRegs (x : Reg) : OpcodeMap.Statement (.storeRegs x) :=
  encodeXNN_and_low (by decide) x 0x55

theorem OpcodeMap.loadRegs (x : Reg) : OpcodeMap.Statement (.loadRegs x) :=
  encodeXNN_and_low (by decide) x 0x65

theorem OpcodeMap.reserved0NNN (addr : Addr) : OpcodeMap.Statement (.reserved0NNN addr) :=
  encodeAddr_and (by decide) addr

end Sys2Proof.Laws
end

