-- ==== Sys2Proof/Tests/Slice0.lean ====
section
/-!
SUPPORT. Tests of the model, and a witness for the hypotheses of each statement. Every expected value is
one of the vectors of spec/95_test_vectors.md (its ids stand in the comments) or is worked out by hand
from the rule named. The start state is the one after reset with the word placed at 0x200.
-/

namespace Sys2Proof.Tests

open Sys2Proof Sys2Proof.Machine

/-! ## Small states and what a step leaves -/

/-- What is read from the state a result answers. -/
def seen {α : Type} (r : Result) (f : State → α) : Option α :=
  match r with
  | .next t => some (f t)
  | .fault _ => none
  | .refused _ => none

/-- The state after reset with some registers set. -/
def regs (l : List (Reg × Byte)) : State := l.foldl (fun s p => s.setV p.1 p.2) State.reset

/-- Bytes placed in memory. -/
def bytesAt (s : State) (a : Nat) (bs : List Byte) : State := s.writeBytes a bs

/-- One step on a word placed where the next step fetches. -/
def run (s : State) (w : Nat) : Result := step (s.withFetchWord 16 w)

/-- SP set, entry 0 of the stack holding 0x456. -/
def stacked (n : Byte) : State := { State.reset with sp := n, stack := State.reset.stack.set 0 0x456 }

/-- PC set. -/
def atPc (w : Word) : State := State.reset.setPc w

/-- I set. -/
def atIndex (s : State) (w : Word) : State := s.setI w

/-- The keys of a list latched. -/
def keys (s : State) (l : List Reg) : State := l.foldl (fun s k => s.setKey k true) s

/-- A cell of the framebuffer set. -/
def lit (s : State) (px : Fin 64) (py : Fin 32) : State := s.setFb (s.fb.setCell px py true)

/-- The cells of a row that are on. -/
def rowOn (f : Framebuffer) (py : Fin 32) : List Nat :=
  (List.finRange 64).filterMap fun px => if f.cell px py then some px.val else none

/-! ## Well-formedness -/

theorem test_wellFormed_reserved : Instr.wellFormed (.reserved0NNN 0x123) = true := by decide

/-- The two words the reserved row excludes (R69). -/
theorem test_illFormed_clearScreenWord : Instr.wellFormed (.reserved0NNN 0x0E0) = false := by decide

theorem test_illFormed_returnWord : Instr.wellFormed (.reserved0NNN 0x0EE) = false := by decide

/-! ## Decoding: DE1 to DE31 -/

/-- DE1, DE2, DE6 to DE8. -/
theorem test_decode_fixed_and_addr :
    decodeWord 0x00E0 = .ok .clearScreen ∧ decodeWord 0x00EE = .ok .ret ∧
      decodeWord 0x0123 = .ok (.reserved0NNN 0x123) ∧ decodeWord 0x1ABC = .ok (.jump 0xABC) ∧
      decodeWord 0x2FFF = .ok (.call 0xFFF) := by decide

/-- DE9 to DE11, DE13, DE14, DE18. -/
theorem test_decode_skips_and_immediates :
    decodeWord 0x3A7F = .ok (.skipEqImm 10 0x7F) ∧ decodeWord 0x4A7F = .ok (.skipNeqImm 10 0x7F) ∧
      decodeWord 0x5AB0 = .ok (.skipEqReg 10 11) ∧ decodeWord 0x6005 = .ok (.setImm 0 5) ∧
      decodeWord 0x7F03 = .ok (.addImm 15 3) ∧ decodeWord 0x9AB0 = .ok (.skipNeqReg 10 11) := by
  decide

/-- DE15, DE16. -/
theorem test_decode_family8 :
    decodeWord 0x8AB0 = .ok (.copy 10 11) ∧ decodeWord 0x8AB1 = .ok (.orReg 10 11) ∧
      decodeWord 0x8AB2 = .ok (.andReg 10 11) ∧ decodeWord 0x8AB3 = .ok (.xorReg 10 11) ∧
      decodeWord 0x8AB4 = .ok (.addReg 10 11) ∧ decodeWord 0x8AB5 = .ok (.subReg 10 11) ∧
      decodeWord 0x8AB6 = .ok (.shiftRight 10) ∧ decodeWord 0x8AB7 = .ok (.subRegRev 10 11) ∧
      decodeWord 0x8ABE = .ok (.shiftLeft 10) := by decide

/-- DE20 to DE25. -/
theorem test_decode_index_draw_keys :
    decodeWord 0xA123 = .ok (.setIndex 0x123) ∧ decodeWord 0xB123 = .ok (.jumpOffset 0x123) ∧
      decodeWord 0xC1F0 = .ok (.randAnd 1 0xF0) ∧ decodeWord 0xD12F = .ok (.draw 1 2 15) ∧
      decodeWord 0xE19E = .ok (.skipKeyPressed 1) ∧ decodeWord 0xE1A1 = .ok (.skipKeyNotPressed 1) := by
  decide

/-- DE28. -/
theorem test_decode_familyF :
    decodeWord 0xF107 = .ok (.readDelay 1) ∧ decodeWord 0xF10A = .ok (.awaitKey 1) ∧
      decodeWord 0xF115 = .ok (.setDelay 1) ∧ decodeWord 0xF118 = .ok (.setSound 1) ∧
      decodeWord 0xF11E = .ok (.addIndex 1) ∧ decodeWord 0xF129 = .ok (.fontAddress 1) ∧
      decodeWord 0xF133 = .ok (.bcd 1) ∧ decodeWord 0xF155 = .ok (.storeRegs 1) ∧
      decodeWord 0xF165 = .ok (.loadRegs 1) := by decide

/-- DE3 to DE6: the reserved row is a decode failure of R64. -/
theorem test_decode_family0_failures :
    decodeForm 0x0000 = .error (.unknownWord 0 0 0 0) ∧
      decodeForm 0x00E1 = .error (.unknownWord 0 0 0xE 1) ∧
      decodeForm 0x01E0 = .error (.unknownWord 0 1 0xE 0) ∧
      decodeForm 0x0123 = .error (.unknownWord 0 1 2 3) := by decide

/-- DE12, DE17, DE19, DE26, DE27, DE29 to DE31. -/
theorem test_decode_failures :
    decodeForm 0x5AB1 = .error (.unknownWord 5 0xA 0xB 1) ∧
      decodeForm 0x8AB8 = .error (.unknownWord 8 0xA 0xB 8) ∧
      decodeForm 0x8ABD = .error (.unknownWord 8 0xA 0xB 0xD) ∧
      decodeForm 0x8ABF = .error (.unknownWord 8 0xA 0xB 0xF) ∧
      decodeForm 0x9AB5 = .error (.unknownWord 9 0xA 0xB 5) ∧
      decodeForm 0xE19F = .error (.unknownWord 0xE 1 9 0xF) ∧
      decodeForm 0xE000 = .error (.unknownWord 0xE 0 0 0) ∧
      decodeForm 0xF000 = .error (.unknownWord 0xF 0 0 0) ∧
      decodeForm 0xF166 = .error (.unknownWord 0xF 1 6 6) ∧
      decodeForm 0xFFFF = .error (.unknownWord 0xF 0xF 0xF 0xF) := by decide

/-- R43: the high byte lies at the lower address. -/
theorem test_decode_bytes_big_endian :
    decode [0x60, 0x05, 0x61] = .ok (.setImm 0 5, [0x61]) ∧ decode [0x60] = .error .truncated := by
  decide

theorem test_decodeTableWord :
    decodeTableWord 16 0x8014 = some (.addReg 0 1) ∧ decodeTableWord 16 0xFFFF = none := by decide

/-- S11, the first word; and the row's word run as the first instruction after reset. -/
theorem test_encode_bytes : encodeBytes (.setImm 0 0x05) = [0x60, 0x05] := by decide

/-! ## Flow -/

/-- FL1. -/
theorem test_jump : seen (run State.reset 0x1234) (·.pc) = some 0x234 := by decide

/-- FL4. -/
theorem test_call : seen (run State.reset 0x2ABC) (fun t => (t.stack[0], t.sp, t.pc)) =
    some (0x202, 1, 0xABC) := by decide

/-- FL5, FL6: the last push, and the stack overflow. -/
theorem test_call_full :
    seen (run (stacked 15) 0x2300) (fun t => (t.stack[15], t.sp, t.pc)) = some (0x202, 16, 0x300) ∧
      seen (run (stacked 16) 0x2300) (fun t => (t.errors, t.sp, t.pc)) =
        some ([.boundsError .stackOverflow 16], 16, 0x202) := by decide

/-- FL7. -/
theorem test_return : seen (run (stacked 1) 0x00EE) (fun t => (t.sp, t.pc, t.stack[0])) =
    some (0, 0x456, 0x456) := by decide

/-- FL8, S10. -/
theorem test_return_empty : seen (run State.reset 0x00EE) (fun t => (t.errors, t.pc)) =
    some ([.boundsError .stackUnderflow 0], 0x202) := by decide

/-- FL9, FL10. -/
theorem test_jumpOffset : seen (run (regs [(0, 0x04)]) 0xB300) (·.pc) = some 0x304 ∧
    seen (run (regs [(0, 0xFF)]) 0xBFFF) (·.pc) = some 0x10FE := by decide

/-- FL11, FL12. -/
theorem test_skipEqImm : seen (run (regs [(3, 0x2A)]) 0x332A) (·.pc) = some 0x204 ∧
    seen (run (regs [(3, 0x2B)]) 0x332A) (·.pc) = some 0x202 := by decide

/-- FL13, FL14. -/
theorem test_skipNeqImm : seen (run (regs [(3, 0x2A)]) 0x432A) (·.pc) = some 0x202 ∧
    seen (run (regs [(3, 0x2B)]) 0x432A) (·.pc) = some 0x204 := by decide

/-- FL15, FL16. -/
theorem test_skipEqReg : seen (run (regs [(1, 7), (2, 7)]) 0x5120) (·.pc) = some 0x204 ∧
    seen (run (regs [(1, 7), (2, 8)]) 0x5120) (·.pc) = some 0x202 := by decide

/-- FL18, FL19. -/
theorem test_skipNeqReg : seen (run (regs [(1, 7), (2, 8)]) 0x9120) (·.pc) = some 0x204 ∧
    seen (run (regs [(4, 7)]) 0x9440) (·.pc) = some 0x202 := by decide

/-- FL21, FL22: at the top of memory PC moves past the end without wrapping. -/
theorem test_top_of_memory : seen (run (atPc 0xFFE) 0x3000) (·.pc) = some 0x1002 ∧
    seen (run (atPc 0xFFE) 0x6001) (fun t => (t.v[0], t.pc)) = some (1, 0x1000) := by decide

/-- FL23. -/
theorem test_fetch_error : seen (step (atPc 0xFFF)) (fun t => (t.errors, t.pc)) =
    some ([.boundsError .fetch 0xFFF], 0xFFF) := by decide

/-- FL24: an odd address is legal. -/
theorem test_odd_pc : seen (run (atPc 0x201) 0x6A55) (fun t => (t.v[10], t.pc)) =
    some (0x55, 0x203) := by decide

/-- HO10: the first step from reset with nothing loaded. -/
theorem test_step_from_reset : seen (step State.reset) (fun t => (t.errors, t.pc)) =
    some ([.decodeError 0 0 0 0], 0x202) := by decide

/-- S9, R137. -/
theorem test_unknown_word : seen (run State.reset 0xFFFF) (fun t => (t.errors, t.pc)) =
    some ([.decodeError 15 15 15 15], 0x202) := by decide

/-- DE6, R69. -/
theorem test_reserved_row : seen (run State.reset 0x0123) (fun t => (t.errors, t.pc)) =
    some ([.decodeError 0 1 2 3], 0x202) := by decide

/-! ## Arithmetic -/

/-- S1, AL1. -/
theorem test_setImm : seen (run State.reset 0x6A7F) (fun t => (t.v[10], t.pc)) =
    some (0x7F, 0x202) := by decide

/-- AL2, AL3: no flag. -/
theorem test_addImm : seen (run (regs [(1, 0x80)]) 0x7180) (fun t => (t.v[1], t.v[15])) = some (0, 0) ∧
    seen (run (regs [(15, 0xFE)]) 0x7F03) (fun t => t.v[15]) = some 0x01 := by decide

/-- AL4. -/
theorem test_copy : seen (run (regs [(1, 0x3C)]) 0x8010) (fun t => (t.v[0], t.v[1])) =
    some (0x3C, 0x3C) := by decide

/-- AL5. -/
theorem test_or : seen (run (regs [(0, 0xF0), (1, 0x3C), (15, 0x55)]) 0x8011)
    (fun t => (t.v[0], t.v[15])) = some (0xFC, 0x55) := by decide

/-- AL6. -/
theorem test_and : seen (run (regs [(0, 0xF0), (1, 0x3C), (15, 0x55)]) 0x8012)
    (fun t => (t.v[0], t.v[15])) = some (0x30, 0x55) := by decide

/-- AL7. -/
theorem test_xor : seen (run (regs [(0, 0xF0), (1, 0x3C), (15, 0x55)]) 0x8013)
    (fun t => (t.v[0], t.v[15])) = some (0xCC, 0x55) := by decide

/-- S3, AL10. -/
theorem test_addReg : seen (run (regs [(0, 0xFF), (1, 0x01)]) 0x8014) (fun t => (t.v[0], t.v[15])) =
      some (0x00, 1) ∧
    seen (run (regs [(0, 0x7F), (1, 0x80), (15, 1)]) 0x8014) (fun t => (t.v[0], t.v[15])) =
      some (0xFF, 0) := by decide

/-- AL12, AL14: VF as an operand. -/
theorem test_addReg_vF : seen (run (regs [(15, 0xFF), (1, 0x01)]) 0x8F14) (fun t => t.v[15]) = some 1 ∧
    seen (run (regs [(0, 0x10), (15, 0x01)]) 0x80F4) (fun t => (t.v[0], t.v[15])) =
      some (0x11, 0) := by decide

/-- S4, AL15. -/
theorem test_subReg :
    seen (run (regs [(0, 0x01), (1, 0x02), (15, 1)]) 0x8015) (fun t => (t.v[0], t.v[15])) =
      some (0xFF, 0) ∧
    seen (run (regs [(0, 5), (1, 5)]) 0x8015) (fun t => (t.v[0], t.v[15])) = some (0, 1) := by decide

/-- AL18, AL19. -/
theorem test_subReg_vF : seen (run (regs [(15, 5), (1, 3)]) 0x8F15) (fun t => t.v[15]) = some 1 ∧
    seen (run (regs [(15, 3), (1, 5)]) 0x8F15) (fun t => t.v[15]) = some 0 := by decide

/-- AL20, AL21. -/
theorem test_subRegRev : seen (run (regs [(0, 2), (1, 1)]) 0x8017) (fun t => (t.v[0], t.v[15])) =
      some (0xFF, 0) ∧
    seen (run (regs [(0, 1), (1, 3)]) 0x8017) (fun t => (t.v[0], t.v[15])) = some (0x02, 1) := by decide

/-- AL24, AL27: the `y` nibble is ignored. -/
theorem test_shiftRight : seen (run (regs [(0, 0x04), (15, 1)]) 0x8006) (fun t => (t.v[0], t.v[15])) =
      some (0x02, 0) ∧
    seen (run (regs [(2, 0x05), (7, 0xAA)]) 0x8276) (fun t => (t.v[2], t.v[7], t.v[15])) =
      some (0x02, 0xAA, 1) := by decide

/-- AL30, AL34. -/
theorem test_shiftLeft : seen (run (regs [(0, 0x81)]) 0x800E) (fun t => (t.v[0], t.v[15])) =
      some (0x02, 1) ∧
    seen (run (regs [(15, 0x41)]) 0x8F0E) (fun t => t.v[15]) = some 0 := by decide

/-- AL36: with nn = 0 the result is 0 whatever byte is drawn, and one byte is drawn. -/
theorem test_randAnd_zero : seen (run State.reset 0xC000) (fun t => t.draws) = some 1 := by decide

/-! ## Index register and memory -/

/-- IM1. -/
theorem test_setIndex : seen (run State.reset 0xAFFF) (·.ireg) = some 0x0FFF := by decide

/-- IM2, IM3. -/
theorem test_addIndex :
    seen (run (atIndex (regs [(1, 5)]) 0x0FFE) 0xF11E) (·.ireg) = some 0x1003 ∧
      seen (run (atIndex (regs [(1, 1), (15, 0x77)]) 0xFFFF) 0xF11E) (fun t => (t.ireg, t.v[15])) =
        some (0, 0x77) := by decide

/-- IM6, IM8. -/
theorem test_fontAddress : seen (run (regs [(0, 0x0F)]) 0xF029) (·.ireg) = some 0x4B ∧
    seen (run (regs [(0, 0xFF)]) 0xF029) (·.ireg) = some 0x4FB := by decide

/-- S5. -/
theorem test_bcd : seen (run (atIndex (regs [(0, 0xEA)]) 0x300) 0xF033)
    (fun t => (t.readByte 0x300, t.readByte 0x301, t.readByte 0x302)) = some (2, 3, 4) := by decide

/-- IM13, IM14: the last legal position, and all or nothing past it. -/
theorem test_bcd_top :
    seen (run (atIndex (regs [(0, 255)]) 0xFFD) 0xF033)
      (fun t => (t.readByte 0xFFD, t.readByte 0xFFE, t.readByte 0xFFF)) = some (2, 5, 5) ∧
    seen (run (atIndex (regs [(0, 255)]) 0xFFE) 0xF033)
      (fun t => (t.errors, t.pc, t.readByte 0xFFE)) =
        some ([.boundsError .memWrite 0xFFE], 0x202, 0) := by decide

/-- S6, IM15, IM16. -/
theorem test_storeRegs :
    seen (run (atIndex (regs [(0, 0x11), (1, 0x22), (2, 0x33), (3, 0x44)]) 0x400) 0xF255)
      (fun t => (t.readByte 0x400, t.readByte 0x402, t.readByte 0x403, t.ireg)) =
        some (0x11, 0x33, 0, 0x400) ∧
    seen (run (atIndex (regs [(0, 0xAB), (1, 0xCD)]) 0xFFF) 0xF155)
      (fun t => (t.errors, t.readByte 0xFFF)) = some ([.boundsError .memWrite 0xFFF], 0) := by decide

/-- IM19, IM21: a glyph loaded, and an address that is not wrapped. -/
theorem test_loadRegs :
    seen (run State.reset 0xF465) (fun t => (t.v[0], t.v[1], t.v[4], t.v[5])) =
      some (0xF0, 0x90, 0xF0, 0) ∧
    seen (run (atIndex State.reset 0xFFFF) 0xF165) (·.errors) =
      some [.boundsError .memRead 0xFFFF] := by decide

/-- IM22, R55: a store over the next instruction is what the next fetch reads. -/
theorem test_self_modify : seen (run (atIndex (regs [(0, 0x12)]) 0x202) 0xF155) (·.fetchWord) =
    some (.ok 0x1200) := by decide

/-! ## Display -/

/-- DR8: a set cell under a 1 bit goes off and is a collision. -/
theorem test_draw_collision :
    seen (run (atIndex (bytesAt (lit State.reset 0 0) 0x300 [0xC0]) 0x300) 0xD011)
      (fun t => (t.fb.cell 0 0, t.fb.cell 1 0, t.v[15])) = some (false, true, 1) := by decide

/-- DR7, the example of R114: both axes wrap. -/
theorem test_draw_wraps :
    seen (run (atIndex (bytesAt (regs [(1, 62), (2, 31)]) 0x20E [0x81, 0xC0]) 0x20E) 0xD122)
      (fun t => (rowOn t.fb 31, rowOn t.fb 0, t.v[15])) = some ([5, 62], [62, 63], 0) := by decide

/-- DR10, DR12: no row reads nothing, and a sprite past the end changes nothing. -/
theorem test_draw_bounds :
    seen (run (atIndex (regs [(15, 1)]) 0xFFFF) 0xD010) (fun t => (t.errors, t.v[15])) = some ([], 0) ∧
    seen (run (atIndex (regs [(15, 0x33)]) 0xFFF) 0xD012) (fun t => (t.errors, t.v[15], t.pc)) =
      some ([.boundsError .memRead 0xFFF], 0x33, 0x202) := by decide

/-- DR13: VF is read as the column before it is written. -/
theorem test_draw_vF :
    seen (run (atIndex (bytesAt (regs [(15, 3)]) 0x300 [0x80]) 0x300) 0xDF01)
      (fun t => (rowOn t.fb 0, t.v[15])) = some ([3], 0) := by decide

/-- DR15. -/
theorem test_clearScreen : seen (run (lit State.reset 5 7) 0x00E0) (fun t => rowOn t.fb 7) =
    some [] := by decide

/-! ## Keyboard and timers -/

/-- KB1, KB2, KB5. -/
theorem test_skipKeyPressed :
    seen (run (keys (regs [(4, 0x0A)]) [10]) 0xE49E) (·.pc) = some 0x204 ∧
      seen (run (regs [(4, 0x0A)]) 0xE49E) (·.pc) = some 0x202 ∧
      seen (run (regs [(4, 0x10)]) 0xE49E) (fun t => (t.errors, t.pc)) =
        some ([.boundsError .keyIndex 16], 0x202) := by decide

/-- KB3, KB4, KB6. -/
theorem test_skipKeyNotPressed :
    seen (run (keys (regs [(4, 0x0A)]) [10]) 0xE4A1) (·.pc) = some 0x202 ∧
      seen (run (regs [(4, 0x0A)]) 0xE4A1) (·.pc) = some 0x204 ∧
      seen (run (regs [(4, 0xFF)]) 0xE4A1) (fun t => (t.errors, t.pc)) =
        some ([.boundsError .keyIndex 255], 0x202) := by decide

/-- KW1, KW4. -/
theorem test_awaitKey :
    seen (run State.reset 0xF30A) (fun t => (t.mode, t.pc)) = some (.awaitingKey 3, 0x200) ∧
      seen (run (keys State.reset [5, 9]) 0xF00A) (fun t => (t.v[0], t.pc, t.mode, t.key[5])) =
        some (5, 0x202, .running, true) := by decide

/-- KW2, KW3: the wait and its end at the lowest key. -/
theorem test_awaiting_step :
    seen (step (State.reset.setMode (.awaitingKey 3))) (fun t => (t.mode, t.pc)) =
      some (.awaitingKey 3, 0x200) ∧
    seen (step (keys (State.reset.setMode (.awaitingKey 3)) [7, 2]))
      (fun t => (t.v[3], t.pc, t.mode, t.key[2], t.key[7])) =
        some (2, 0x202, .running, true, true) := by decide

/-- A waiting state with keys 2 and 7 latched and another latch effect. -/
def waitingWith (e : LatchEffect) : State :=
  { keys (State.reset.setMode (.awaitingKey 3)) [7, 2] with
    params := { font := Config.defaultFont, latchEffect := e } }

/-- KW3 with the other values of AWAIT_KEY_LATCH_EFFECT. -/
theorem test_latch_effects :
    seen (step (waitingWith .consumed)) (fun t => (t.key[2], t.key[7])) = some (false, true) ∧
      seen (step (waitingWith .all)) (fun t => (t.key[2], t.key[7])) = some (false, false) := by decide

/-- TM3. -/
theorem test_readDelay : seen (run (State.reset.setDt 0x2A) 0xF507) (fun t => (t.v[5], t.dt)) =
    some (0x2A, 0x2A) := by decide

/-- TM1. -/
theorem test_setDelay : seen (run (regs [(2, 0x3C)]) 0xF215) (fun t => (t.dt, t.st)) =
    some (0x3C, 0) := by decide

/-- TM2. -/
theorem test_setSound : seen (run (regs [(2, 0x3C)]) 0xF218) (fun t => (t.dt, t.st)) =
    some (0, 0x3C) := by decide

/-! ## Host operations -/

/-- TM4, TM5. -/
theorem test_tick :
    seen (perform .tickTimers ((State.reset.setDt 2).setSt 1)) (fun t => (t.dt, t.st)) = some (1, 0) ∧
      seen (perform .tickTimers (State.reset.setDt 1)) (fun t => (t.dt, t.st)) = some (0, 0) := by decide

/-- HO1, HO3, HO4. -/
theorem test_latch :
    seen (perform (.setKey 15 true) State.reset) (fun t => t.key[15]) = some true ∧
      seen (perform (.setKey 16 true) State.reset) (fun t => (t.errors, t.key[15])) =
        some ([.boundsError .keyIndex 16], false) ∧
      seen (perform .clearKeys (keys State.reset [1, 8])) (fun t => (t.key[1], t.key[8])) =
        some (false, false) := by decide

/-- HO8. -/
theorem test_load : seen (runOps [.load [0x11, 0x22, 0x33], .load [0x44]] State.reset)
    (fun t => (t.readByte 0x200, t.readByte 0x201, t.readByte 0x202)) =
      some (0x44, 0x22, 0x33) := by decide

/-- HO9: a reset abandons a wait and restores the memory. -/
theorem test_reset : seen (perform .reset (bytesAt (State.reset.setMode (.awaitingKey 3)) 0 [1]))
    (fun t => (t.mode, t.readByte 0, t.pc)) = some (.running, 0xF0, 0x200) := by decide

/-- S11, P1: the end-to-end example. -/
theorem test_program_P1 :
    seen (runOps [.load [0x60, 0x05, 0x61, 0x03, 0x80, 0x14], .step, .step, .step] State.reset)
      (fun t => (t.v[0], t.v[15], t.pc, t.errors)) = some (8, 0, 0x206, []) := by decide

/-! ## Witnesses: the hypotheses of each statement are met, at the boundaries of its clauses -/

/-- A result in which something is seen is a next state. -/
theorem exists_of_seen {α : Type} {r : Result} {f : State → α} {a : α} (h : seen r f = some a) :
    ∃ t, r = .next t ∧ f t = a := by
  cases r with
  | next t => exact ⟨t, rfl, by simpa [seen] using h⟩
  | fault r => simp [seen] at h
  | refused r => simp [seen] at h

/-- The state after reset with the word placed at PC. -/
def placedAt (pc : Word) (w : Nat) : State := (atPc pc).withFetchWord 16 w

/-- A waiting state with keys latched. -/
def waiting (t : Reg) (l : List Reg) : State := keys (State.reset.setMode (.awaitingKey t)) l

/-- The word at `a`. -/
def wordAt (s : State) (a : Nat) : Word := beWord (s.readByte a) (s.readByte (a + 1))

theorem witness_StepRunsDecodedInstruction :
    (placedAt 4094 0x6001).mode = .running ∧ (placedAt 4094 0x6001).pc.toNat = 4094 ∧
      decodeWord (wordAt (placedAt 4094 0x6001) 4094) = .ok (.setImm 0 1) := by decide

theorem witness_FetchOutOfRangeChangesNothing :
    ((atPc 4095).mode = .running ∧ (atPc 4095).pc.toNat = 4095) ∧
      (atPc 0xFFFF).mode = .running ∧ 4095 ≤ (atPc 0xFFFF).pc.toNat := by decide

theorem witness_UndecodableWordReturnsDecodeError :
    (placedAt 4094 0xFFFF).mode = .running ∧ (placedAt 4094 0xFFFF).pc.toNat = 4094 ∧
      decodeForm (wordAt (placedAt 4094 0xFFFF) 4094) = .error (.unknownWord 15 15 15 15) := by decide

theorem witness_WaitingStepDeliversLowestKey :
    ((waiting 3 []).mode = .awaitingKey 3 ∧ ∀ k : Reg, (waiting 3 []).key[k] = false) ∧
      (waiting 15 [9, 4]).mode = .awaitingKey 15 ∧ (waiting 15 [9, 4]).LeastPressed 4 :=
  ⟨by decide, by decide, by decide, by decide⟩

/-- A step that returns no error, one that fails to fetch, and one that fails later. -/
theorem witness_ErrorsLeaveEverythingButPc :
    (∃ t, step (placedAt 0x200 0x6001) = .next t ∧ t.errors = []) ∧
      (∃ t, step (atPc 4095) = .next t ∧ t.errors = [.boundsError .fetch 4095]) ∧
      ∃ t, step (placedAt 0x200 0x00EE) = .next t ∧ t.errors = [.boundsError .stackUnderflow 0] :=
  ⟨exists_of_seen (by decide), exists_of_seen (by decide), exists_of_seen (by decide)⟩

theorem witness_EarlierErrorsDoNotChangeExecution :
    ∃ t, step (atPc 4095) = .next t ∧ t.errors = [.boundsError .fetch 4095] :=
  exists_of_seen (by decide)

theorem witness_DecodeOfEncodeIsIdentity :
    Instr.wellFormed (.draw 15 0 15) = true ∧ Instr.wellFormed (.reserved0NNN 0xFFF) = true := by decide

theorem witness_DecoderAgreesWithOpcodeMap :
    decodeForm 0x8AB6 = .ok (.shiftRight 10) ∧ decodeForm 0x8AB8 = .error (.unknownWord 8 10 11 8) ∧
      (∀ addr, Instr.copy 0 1 ≠ .reserved0NNN addr) ∧
      0x8AB0 &&& (Instr.copy 0 1).opcodeRow.1 = (Instr.copy 0 1).opcodeRow.2 ∧
      0x8AB0 &&& (Instr.copy 2 3).opcodeRow.1 = (Instr.copy 2 3).opcodeRow.2 := by
  refine ⟨by decide, by decide, fun addr h => ?_, by decide, by decide⟩
  cases h

theorem witness_ReservedRowReturnsDecodeError :
    nibble0 0x00E1 = 0 ∧ nibble0 0x0FFF = 0 ∧ (0x00E1 : Word) ≠ 0x00E0 ∧ (0x00E1 : Word) ≠ 0x00EE := by
  decide

/-- PC at the last two-byte place and past it, memory not empty. -/
theorem witness_PlacedWordIsFetched :
    (Memory.wf State.reset.params.font (placedAt 4094 0x6001).mem = true ∧ (placedAt 4094 0x6001).mem ≠ []) ∧
      Memory.wf State.reset.params.font (placedAt 4095 0xFFFF).mem = true := by decide

theorem witness_CallPushesPcAndJumps :
    (stacked 0).sp.toNat < 16 ∧ (stacked 15).sp.toNat < 16 ∧ 16 ≤ (stacked 16).sp.toNat := by decide

theorem witness_ReturnPopsPc :
    (1 ≤ (stacked 1).sp.toNat ∧ (stacked 1).sp.toNat - 1 < 16) ∧
      (1 ≤ (stacked 16).sp.toNat ∧ (stacked 16).sp.toNat - 1 < 16) ∧ (stacked 0).sp = 0 := by decide

theorem witness_ReturnUndoesCall : (stacked 0).sp.toNat < 16 ∧ (stacked 15).sp.toNat < 16 := by decide

/-- FL2: a jump to itself. -/
theorem witness_ParkedProgramStays : (placedAt 0x200 0x1200).Parked 0x200 :=
  ⟨by decide, by decide, by decide⟩

theorem witness_ResultAndFlagAreExact : (0 : Reg) ≠ vF ∧ (14 : Reg) ≠ vF := by decide

theorem witness_BcdStoresDecimalDigits :
    Memory.wf State.reset.params.font (atIndex State.reset 4093).mem = true ∧
      (atIndex State.reset 4093).ireg.toNat + 2 < 4096 ∧
      4096 ≤ (atIndex State.reset 4094).ireg.toNat + 2 := by decide

theorem witness_StoreRegsWritesPrefix :
    Memory.wf State.reset.params.font (atIndex State.reset 4080).mem = true ∧
      (atIndex State.reset 4080).ireg.toNat + (15 : Reg).val < 4096 ∧
      4096 ≤ (atIndex State.reset 4081).ireg.toNat + (15 : Reg).val ∧
      (atIndex State.reset 4095).ireg.toNat + (0 : Reg).val < 4096 := by decide

theorem witness_LoadRegsReadsPrefix :
    (atIndex State.reset 4080).ireg.toNat + (15 : Reg).val < 4096 ∧
      4096 ≤ (atIndex State.reset 4081).ireg.toNat + (15 : Reg).val ∧
      4096 ≤ (atIndex State.reset 0xFFFF).ireg.toNat + (0 : Reg).val := by decide

/-- The zeroing of V0 to V2. -/
theorem witness_StoreThenLoadRestoresRegisters :
    Memory.wf State.reset.params.font (atIndex (regs [(0, 1), (3, 4)]) 0x300).mem = true ∧
      (atIndex (regs [(0, 1), (3, 4)]) 0x300).ireg.toNat + (2 : Reg).val < 4096 ∧
      ∀ k : Reg, 2 < k → (regs [(3, 4)]).v[k] = (regs [(0, 1), (3, 4)]).v[k] := by decide

/-- PC at the last two-byte place, each store at the end of its range there, and the longest ROM. -/
theorem witness_StoredBytesAreFetched :
    Memory.wf State.reset.params.font (atIndex (atPc 4094) 4093).mem = true ∧
      (atIndex (atPc 4094) 4093).pc.toNat ≤ 4094 ∧
      (atIndex (atPc 4094) 4093).ireg.toNat + (2 : Reg).val < 4096 ∧
      (atIndex (atPc 4094) 4093).ireg.toNat + 2 < 4096 ∧
      (List.replicate 3584 (0xAA : Byte)).length ≤ 3584 :=
  ⟨by decide, by decide, by decide, by decide, Nat.le_of_eq List.length_replicate⟩

/-- R55 with PC at the first, at a middle and at the last stored byte, and before the stored range. -/
theorem test_wordAfterStore :
    (atPc 0x300).wordAfterStore 0x300 [1, 2, 3] = 0x0102 ∧
      (atPc 0x301).wordAfterStore 0x300 [1, 2, 3] = 0x0203 ∧
      (atPc 0x302).wordAfterStore 0x300 [1, 2, 3] = 0x0300 ∧
      (atPc 0x2FF).wordAfterStore 0x300 [1, 2, 3] = 0x0001 ∧
      (atPc 0x2FE).wordAfterStore 0x300 [1, 2, 3] = 0 := by decide

/-- A sprite with one bit over a cell that is on. -/
def collision : State := atIndex (bytesAt (lit State.reset 0 0) 0x300 [0x80]) 0x300

/-- The bound of draw at its last address and past it, a collision, and a sprite without one. -/
theorem witness_DrawTogglesSpriteCells :
    (atIndex State.reset 4081).ireg.toNat + (15 : Fin 16).val ≤ 4096 ∧
      4096 < (atIndex State.reset 4082).ireg.toNat + (15 : Fin 16).val ∧
      (∃ px py, collision.SpriteBit 0 0 1 px py ∧ collision.fb.cell px py = true) ∧
      (∃ px py, ¬ collision.SpriteBit 0 0 1 px py) ∧
      ¬ ∃ px py, collision.SpriteBit 0 0 0 px py ∧ collision.fb.cell px py = true := by
  refine ⟨by decide, by decide, ⟨0, 0, ⟨0, 0, by decide, by decide, by decide, by decide, by decide⟩,
    by decide⟩, ⟨0, 1, ?_⟩, ?_⟩
  · rintro ⟨r, c, hr, -, -, -, hy⟩
    have hr : r = 0 := by
      have : r < 1 := hr
      omega
    subst hr
    exact absurd hy (by decide)
  · rintro ⟨px, py, ⟨r, c, hr, -⟩, -⟩
    exact absurd hr (Nat.not_lt_zero r)

theorem witness_DrawTwiceRestoresFramebuffer :
    (0 : Fin 16).val = 0 ∧ (atIndex State.reset 4081).ireg.toNat + (15 : Fin 16).val ≤ 4096 := by decide

theorem witness_FramebufferIndexMapping : 64 * (31 : Fin 32).val + (63 : Fin 64).val < 2048 := by decide

theorem witness_KeySkipsTestTheLatch :
    (regs [(4, 15)]).v[(4 : Reg)].toNat < 16 ∧ 16 ≤ (regs [(4, 16)]).v[(4 : Reg)].toNat := by decide

theorem witness_AwaitKeyTakesLowestKeyOrWaits :
    (keys State.reset [9, 5]).LeastPressed 5 ∧ ∀ k : Reg, State.reset.key[k] = false :=
  ⟨⟨by decide, by decide⟩, by decide⟩

/-- The wait entered, and a key latched later. -/
theorem witness_AwaitKeyWaitsAtItsAddress :
    (placedAt 4094 0xF30A).mode = .running ∧ (placedAt 4094 0xF30A).pc.toNat = 4094 ∧
      decodeWord (wordAt (placedAt 4094 0xF30A) 4094) = .ok (.awaitKey 3) ∧
      (∀ k : Reg, (placedAt 4094 0xF30A).key[k] = false) ∧
      ∃ t, step (placedAt 4094 0xF30A) = .next t ∧
        State.LeastPressed { t with key := (keys State.reset [15]).key } 15 := by
  refine ⟨by decide, by decide, by decide, by decide, ?_⟩
  obtain ⟨t, h, -⟩ := exists_of_seen (r := step (placedAt 4094 0xF30A)) (f := (·.pc)) (a := 4094) (by decide)
  exact ⟨t, h, show (keys State.reset [15]).key[(15 : Reg)] = true by decide,
    show ∀ j : Reg, j < 15 → (keys State.reset [15]).key[j] = false by decide⟩

/-- A step that keeps ST and one that writes it. -/
theorem witness_SoundTimerHasNoEffect :
    (∃ t, step (placedAt 0x200 0x6001) = .next t ∧ t.st = 0) ∧
      ∃ t, step ((regs [(2, 0x3C)]).withFetchWord 16 0xF218) = .next t ∧ t.st = 0x3C :=
  ⟨exists_of_seen (by decide), exists_of_seen (by decide)⟩

theorem witness_HostWritesTheLatch : 15 < 16 ∧ 16 ≤ 16 := by decide

theorem witness_LoadCopiesTheRom :
    Memory.wf State.reset.params.font State.reset.mem = true ∧
      (List.replicate 3584 (0xAA : Byte)).length ≤ 3584 ∧
      3584 < (List.replicate 3585 (0xAA : Byte)).length :=
  ⟨rfl, Nat.le_of_eq List.length_replicate, by rw [List.length_replicate]; omega⟩

/-- An instruction with a next state for several of the clauses. -/
theorem witness_OnlyListedInstructionsWrite :
    (∃ t, exec (.call 0x300) State.reset = .next t ∧ t.sp = 1) ∧
      (∃ t, exec (.setIndex 0x300) State.reset = .next t ∧ t.ireg = 0x300) ∧
      (∃ t, exec (.setDelay 0) (regs [(0, 7)]) = .next t ∧ t.dt = 7) ∧
      (∃ t, exec (.setSound 0) (regs [(0, 7)]) = .next t ∧ t.st = 7) ∧
      (∃ t, exec (.awaitKey 3) State.reset = .next t ∧ t.mode = .awaitingKey 3) ∧
      (∃ t, exec .clearScreen (lit State.reset 5 7) = .next t ∧ t.fb.cell 5 7 = false) ∧
      (∃ t, exec (.awaitKey 3) (waitingWith .all) = .next t ∧ t.key[2] = false) ∧
      (∃ t, exec (.bcd 0) (atIndex (regs [(0, 7)]) 0x300) = .next t ∧ t.mem = [(0x302, 7)]) ∧
      (∃ t, exec (.randAnd 0 0xFF) State.reset = .next t ∧ t.draws = 1) ∧
      ∃ t, exec (.jump 0x300) State.reset = .next t ∧ t.pc = 0x300 :=
  ⟨exists_of_seen (by decide), exists_of_seen (by decide), exists_of_seen (by decide),
    exists_of_seen (by decide), exists_of_seen (by decide), exists_of_seen (by decide),
    exists_of_seen (by decide), exists_of_seen (by decide), exists_of_seen (by decide),
    exists_of_seen (by decide)⟩

theorem witness_FlagIsZeroOrOne :
    Instr.addReg 0 1 ∈ [Instr.addReg 0 1, .subReg 0 1, .subRegRev 0 1, .shiftRight 0, .shiftLeft 0] ∧
      ∃ t, exec (.draw 0 0 1) collision = .next t ∧ t.errors = collision.errors :=
  ⟨by decide, exists_of_seen (f := (·.errors)) (by decide)⟩

/-- One call deep, at a return. -/
def inCall : State := { (stacked 1) with pc := 0x300 }

theorem inCall_inv : (inCall.withFetchWord 16 0x00EE).Inv := by
  refine ⟨by decide, by decide, by decide, fun k hk => ?_, fun h => absurd rfl h⟩
  have hk : k.val < 1 := hk
  obtain rfl : k = 0 := Fin.ext (by show k.val = 0; omega)
  decide

/-- A waiting state meets the invariant too. -/
theorem waiting_inv : (waiting 3 [7]).Inv := by
  refine ⟨by decide, by decide, by decide, fun k hk => ?_, fun _ => by decide⟩
  have hk : k.val < 0 := hk
  omega

theorem witness_EveryStepKeepsInvariant :
    (inCall.withFetchWord 16 0x00EE).Inv ∧
      (∃ t, step (inCall.withFetchWord 16 0x00EE) = .next t ∧ (t.pc, t.sp) = (0x456, 0)) ∧
      (waiting 3 [7]).Inv ∧ ∃ t, step (waiting 3 [7]) = .next t ∧ t.mode = .running :=
  ⟨inCall_inv, exists_of_seen (by decide), waiting_inv, exists_of_seen (by decide)⟩

theorem witness_EveryScheduleRunsAndKeepsInvariant :
    (inCall.withFetchWord 16 0x00EE).Inv ∧ (waiting 3 [7]).Inv := ⟨inCall_inv, waiting_inv⟩

/-- The one stop: a return with SP at 17. -/
theorem witness_StepStopsOnlyAboveStackTop :
    step ((stacked 17).withFetchWord 16 0x00EE) = .fault .stackPointerOutOfRange := by rfl

end Sys2Proof.Tests
end

section
/-!
PROOF. The invariant of the machine along every schedule (spec/00_scope.md R3; spec/10_state.md R18,
R19, R24; spec/60_exceptions.md R144, R156): one rule per update of the state, then the
instructions, the step, the host's operations, and the induction over the schedule.
-/

namespace Sys2Proof.Machine

variable {s t : State}

/-! ## One rule per update -/

/-- The invariant speaks of memory, parameters, PC, SP, stack and mode only. -/
theorem State.Inv.of_sameControl (h : s.Inv)
    (e : t = { s with
      v := t.v, ireg := t.ireg, dt := t.dt, st := t.st, fb := t.fb, key := t.key
      draws := t.draws, errors := t.errors }) : t.Inv := by
  rw [e]
  exact ⟨h.memory, h.stackPointer, h.programCounter, h.returnAddresses, h.waiting⟩

theorem State.Inv.recordError (h : s.Inv) (e : MachineError) : (s.recordError e).Inv :=
  h.of_sameControl rfl

theorem State.Inv.deliverKey (h : s.Inv) (x k0 : Reg) : (s.deliverKey x k0).Inv := by
  rw [State.deliverKey_eq]
  exact h.of_sameControl rfl

theorem State.Inv.setPc_setMode (h : s.Inv) {w : Word} {m : Mode} (hw : w.toNat ≤ 0x10FE)
    (hm : m ≠ .running → w.toNat ≤ 4094) : ((s.setPc w).setMode m).Inv :=
  ⟨h.memory, h.stackPointer, hw, h.returnAddresses, hm⟩

theorem State.Inv.setPc_of_running (h : s.Inv) (hr : s.mode = .running) {w : Word}
    (hw : w.toNat ≤ 0x10FE) : (s.setPc w).Inv :=
  h.setPc_setMode hw fun hm => absurd hr hm

theorem State.Inv.writeBytes (h : s.Inv) {a : Nat} {bs : List Byte} (ha : a + bs.length ≤ memSize) :
    (s.writeBytes a bs).Inv := by
  have hwf := State.writeBytes_wf bs ha h.memory
  rw [State.writeBytes_eq] at hwf ⊢
  exact ⟨hwf, h.stackPointer, h.programCounter, h.returnAddresses, h.waiting⟩

/-- A push keeps the invariant when what is pushed can be a return address (R80). -/
theorem State.Inv.push (h : s.Inv) {w : Word} (hsp : s.sp.toNat < 16) (hlow : 2 ≤ w.toNat)
    (hhigh : w.toNat ≤ 4096) :
    { s with stack := s.stack.set s.sp.toNat w hsp, sp := s.sp + 1 }.Inv := by
  have hsp' : (s.sp + 1).toNat = s.sp.toNat + 1 := by bv_omega
  refine ⟨h.memory, by rw [hsp']; omega, h.programCounter, fun k hk => ?_, h.waiting⟩
  simp only [hsp'] at hk
  simp only [Fin.getElem_fin, Vector.getElem_set]
  split
  · exact ⟨hlow, hhigh⟩
  · exact h.returnAddresses k (by omega)

/-- Dropping the top entry keeps the invariant. -/
theorem State.Inv.dropTop (h : s.Inv) (h0 : s.sp ≠ 0) : { s with sp := s.sp - 1 }.Inv := by
  have hsp' : (s.sp - 1).toNat = s.sp.toNat - 1 := by bv_omega
  have hle := h.stackPointer
  refine ⟨h.memory, by rw [hsp']; omega, h.programCounter, fun k hk => ?_, h.waiting⟩
  simp only [hsp'] at hk
  exact h.returnAddresses k (by omega)

/-! ## An instruction on entry -/

/-- The states in which a step executes an instruction: Running, with PC the A + 2 of an address A
where a fetch was possible (spec/00_scope.md R8; R30, R45). -/
structure State.OnEntry (s : State) : Prop where
  /-- The invariant holds. -/
  inv : s.Inv
  /-- The mode is Running (R30). -/
  running : s.mode = .running
  /-- PC has been advanced by one instruction width (R16). -/
  two_le_pc : 2 ≤ s.pc.toNat
  /-- A was at most 4094 (R45). -/
  pc_le : s.pc.toNat ≤ 4096

/-- A step that fetched hands over a state on entry. -/
theorem State.Inv.onEntry_advancePc (h : s.Inv) (hr : s.mode = .running) (hpc : s.pc.toNat ≤ 4094) :
    s.advancePc.OnEntry := by
  have hpc' : (s.pc + 2).toNat = s.pc.toNat + 2 := by bv_omega
  exact ⟨h.setPc_of_running hr (by omega), hr, by rw [State.advancePc_pc]; omega,
    by rw [State.advancePc_pc]; omega⟩

theorem State.Inv.takeError_answersInv (h : s.Inv) (e : MachineError) :
    AnswersNext (s.takeError e) State.Inv :=
  ⟨_, s.takeError_eq e, h.recordError e⟩

theorem State.Inv.storeAtIndex_answersInv (h : s.Inv) {bs : List Byte} (hbs : bs ≠ []) :
    AnswersNext (s.storeAtIndex bs) State.Inv := by
  rcases s.storeAtIndex_cases bs hbs with ⟨hb, e⟩ | ⟨-, e⟩
  · exact ⟨_, e, h.writeBytes hb⟩
  · exact ⟨_, e, h.recordError _⟩

theorem State.regPrefix_ne_nil (s : State) (x : Reg) : s.regPrefix x ≠ [] :=
  List.ne_nil_of_length_pos (by rw [State.regPrefix_length]; omega)

/-- A 12-bit address is in range for PC. -/
theorem State.OnEntry.setPc_zextAddr (h : s.OnEntry) (addr : Addr) :
    (s.setPc (zextAddr addr)).Inv :=
  h.inv.setPc_of_running h.running (by
    have := addr.isLt
    simp only [zextAddr, BitVec.toNat_ofNat]
    omega)

theorem State.OnEntry.skipIf_answersInv (h : s.OnEntry) (c : Bool) :
    AnswersNext (s.skipIf c) State.Inv := by
  cases hc : c with
  | false => exact ⟨_, s.skipIf_false rfl, h.inv⟩
  | true =>
    have hpc := h.pc_le
    exact ⟨_, s.skipIf_true rfl, h.inv.setPc_of_running h.running (by bv_omega)⟩

/-- The farthest jump-offset, 4095 + 255, is the bound of R18. -/
theorem State.OnEntry.execJumpOffset_answersInv (h : s.OnEntry) (addr : Addr) :
    AnswersNext (execJumpOffset addr s) State.Inv := by
  refine ⟨_, rfl, h.inv.setPc_of_running h.running ?_⟩
  have := addr.isLt
  have := s.v[0].isLt
  simp only [offsetTarget, BitVec.toNat_ofNat]
  omega

theorem State.OnEntry.execCall_answersInv (h : s.OnEntry) (addr : Addr) :
    AnswersNext (execCall addr s) State.Inv := by
  unfold execCall
  rcases s.push_cases s.pc with ⟨hsp, e⟩ | ⟨-, e⟩
  · rw [e]
    have hpush : State.OnEntry
        { s with stack := s.stack.set s.sp.toNat s.pc hsp, sp := s.sp + 1 } :=
      ⟨h.inv.push hsp h.two_le_pc h.pc_le, h.running, h.two_le_pc, h.pc_le⟩
    exact ⟨_, rfl, hpush.setPc_zextAddr addr⟩
  · rw [e]
    exact h.inv.takeError_answersInv _

/-- A return goes to a stack entry in use, and SP at most 16 excludes the fault. -/
theorem State.OnEntry.execRet_answersInv (h : s.OnEntry) : AnswersNext (execRet s) State.Inv := by
  unfold execRet
  rcases s.pop_cases fun t s' => .next (s'.setPc t) with ⟨-, e⟩ | ⟨hsp, h0, e⟩ | ⟨hsp, -⟩
  · exact ⟨_, e, h.inv.recordError _⟩
  · have hpos : s.sp.toNat ≠ 0 := fun h' => h0 (BitVec.eq_of_toNat_eq h')
    obtain ⟨-, hle⟩ := h.inv.returnAddresses ⟨s.sp.toNat - 1, hsp⟩
      (show s.sp.toNat - 1 < s.sp.toNat by omega)
    exact ⟨_, e, (h.inv.dropTop h0).setPc_of_running h.running (hle.trans (by decide))⟩
  · exact absurd h.inv.stackPointer (by omega)

theorem State.OnEntry.execDraw_answersInv (h : s.OnEntry) (x y : Reg) (n : Fin 16) :
    AnswersNext (execDraw x y n s) State.Inv := by
  unfold execDraw
  cases s.memRead .memRead s.base n.val with
  | ok rows => exact ⟨_, rfl, h.inv.of_sameControl rfl⟩
  | error e => exact h.inv.takeError_answersInv e

theorem State.OnEntry.execLoadRegs_answersInv (h : s.OnEntry) (x : Reg) :
    AnswersNext (execLoadRegs x s) State.Inv := by
  unfold execLoadRegs
  cases s.memRead .memRead s.base (x.val + 1) with
  | ok bs => exact ⟨_, rfl, h.inv.of_sameControl rfl⟩
  | error e => exact h.inv.takeError_answersInv e

theorem State.OnEntry.execSkipKey_answersInv (h : s.OnEntry) (x : Reg) :
    AnswersNext (execSkipKeyPressed x s) State.Inv ∧
      AnswersNext (execSkipKeyNotPressed x s) State.Inv := by
  unfold execSkipKeyPressed execSkipKeyNotPressed
  cases s.keyOperand x with
  | ok k => exact ⟨h.skipIf_answersInv _, h.skipIf_answersInv _⟩
  | error e => exact ⟨h.inv.takeError_answersInv e, h.inv.takeError_answersInv e⟩

/-- An await-key that has to wait puts PC back to A, where a fetch was possible (R24, R120). -/
theorem State.OnEntry.execAwaitKey_answersInv (h : s.OnEntry) (x : Reg) :
    AnswersNext (execAwaitKey x s) State.Inv := by
  unfold execAwaitKey
  cases s.lowestPressed with
  | some k0 => exact ⟨_, rfl, h.inv.deliverKey x k0⟩
  | none =>
    have hlow := h.two_le_pc
    have hhigh := h.pc_le
    have hpc : (s.pc - 2).toNat = s.pc.toNat - 2 := by bv_omega
    exact ⟨_, rfl, h.inv.setPc_setMode (by omega) fun _ => by omega⟩

/-- Every instruction on entry answers a next state that meets the invariant. -/
theorem State.OnEntry.exec_answersInv (h : s.OnEntry) (i : Instr) :
    AnswersNext (exec i s) State.Inv := by
  cases i with
  | clearScreen | setImm | addImm | copy | orReg | andReg | xorReg | addReg | subReg | shiftRight
  | subRegRev | shiftLeft | randAnd | setIndex | addIndex | fontAddress | readDelay | setDelay
  | setSound => exact ⟨_, rfl, h.inv.of_sameControl rfl⟩
  | skipEqImm | skipNeqImm | skipEqReg | skipNeqReg => exact h.skipIf_answersInv _
  | skipKeyPressed x => exact (h.execSkipKey_answersInv x).1
  | skipKeyNotPressed x => exact (h.execSkipKey_answersInv x).2
  | ret => exact h.execRet_answersInv
  | jump addr => exact ⟨_, rfl, h.setPc_zextAddr addr⟩
  | call addr => exact h.execCall_answersInv addr
  | jumpOffset addr => exact h.execJumpOffset_answersInv addr
  | draw x y n => exact h.execDraw_answersInv x y n
  | awaitKey x => exact h.execAwaitKey_answersInv x
  | bcd x => exact h.inv.storeAtIndex_answersInv (List.cons_ne_nil _ _)
  | storeRegs x => exact h.inv.storeAtIndex_answersInv (s.regPrefix_ne_nil x)
  | loadRegs x => exact h.execLoadRegs_answersInv x
  | reserved0NNN addr => exact h.inv.takeError_answersInv _

/-! ## The step, the host's operations and the schedule -/

theorem State.Inv.stepAwaiting_answersInv (h : s.Inv) {x : Reg} (hm : s.mode = .awaitingKey x) :
    AnswersNext (stepAwaiting x s) State.Inv := by
  have hpc := h.waiting (by simp [hm])
  rcases stepAwaiting_cases x s with ⟨-, e⟩ | ⟨k0, -, e⟩
  · exact ⟨_, e, h⟩
  · have hpc' : (s.deliverKey x k0).pc = s.pc := by rw [State.deliverKey_eq]
    refine ⟨_, e, (h.deliverKey x k0).setPc_setMode ?_ fun hr => absurd rfl hr⟩
    rw [hpc']
    bv_omega

theorem State.Inv.step_answersInv (h : s.Inv) : AnswersNext (step s) State.Inv := by
  rcases step_cases s with ⟨x, hm, e⟩ | ⟨-, -, e⟩ | ⟨w, -, hr, hpc, -, -, e⟩ |
    ⟨-, i, hr, hpc, -, -, e⟩
  · rw [e]
    exact h.stepAwaiting_answersInv hm
  · exact ⟨_, e, h.recordError _⟩
  · exact ⟨_, e, (h.onEntry_advancePc hr hpc).inv.recordError _⟩
  · rw [e]
    exact (h.onEntry_advancePc hr hpc).exec_answersInv i

/-- A reset of the host meets the invariant whatever the parameters are: memory lists nothing. -/
theorem State.hostReset_inv (s : State) : s.hostReset.Inv :=
  ⟨rfl, Nat.zero_le _, by rw [State.hostReset_pc]; decide,
    fun _ hk => absurd hk (Nat.not_lt_zero _), fun hr => absurd rfl hr⟩

theorem State.Inv.hostSetKey (h : s.Inv) (code : Nat) (pressed : Bool) :
    (s.hostSetKey code pressed).Inv := by
  unfold State.hostSetKey
  split
  · exact h.of_sameControl rfl
  · exact h.recordError _

/-- The longest ROM ends at the top of memory. -/
theorem State.Inv.load (h : s.Inv) (rom : List Byte) : (s.load rom).Inv := by
  unfold State.load
  split
  case isTrue hlen => exact h.writeBytes (Nat.add_le_add_left hlen progBase)
  case isFalse => exact h.recordError _

theorem State.Inv.perform_answersInv (h : s.Inv) (o : Operation) :
    AnswersNext (perform o s) State.Inv := by
  cases o with
  | step => exact h.step_answersInv
  | tickTimers | clearKeys => exact ⟨_, rfl, h.of_sameControl rfl⟩
  | setKey code pressed => exact ⟨_, rfl, h.hostSetKey code pressed⟩
  | reset => exact ⟨_, rfl, s.hostReset_inv⟩
  | load rom => exact ⟨_, rfl, h.load rom⟩

theorem runOps_cons_of_next {o : Operation} {os : List Operation} (e : perform o s = .next t) :
    runOps (o :: os) s = runOps os t := by
  simp only [runOps, e]

theorem State.Inv.runOps_answersInv (h : s.Inv) (os : List Operation) :
    AnswersNext (runOps os s) State.Inv := by
  induction os generalizing s with
  | nil => exact ⟨s, rfl, h⟩
  | cons o os ih =>
    obtain ⟨t, e, ht⟩ := h.perform_answersInv o
    rw [runOps_cons_of_next e]
    exact ih ht

/-- Settles O54, by induction on the schedule: every operation answers a next state that meets the
invariant again. -/
theorem everyScheduleRunsAndKeepsInvariant : Obligations.EveryScheduleRunsAndKeepsInvariant :=
  fun os _ h => h.runOps_answersInv os

end Sys2Proof.Machine
end

section
/-!
PROOF. The statements about the state and the step cycle (spec/10_state.md): what a step runs, what
each instruction may write, where a step stops, that the sound timer is not read, the stack, the flag
values, the framebuffer's index mapping, and reset.
-/

namespace Sys2Proof.Machine

variable {s t : State}

/-! ## The step by its cases (R30) -/

theorem step_of_awaiting {x : Reg} (hm : s.mode = .awaitingKey x) : step s = stepAwaiting x s := by
  simp only [step, hm]

theorem step_of_fetch_error {e : MachineError} (hm : s.mode = .running) (hf : s.fetchWord = .error e) :
    step s = .next (s.recordError e) := by
  simp only [step, hm, hf, State.takeError]

theorem step_of_decode_error {w : Word} {f : DecodeFailure} (hm : s.mode = .running)
    (hf : s.fetchWord = .ok w) (hd : decodeWord w = .error f) :
    step s = .next (s.advancePc.recordError (decodeErrorOf w)) := by
  simp only [step, hm, hf, hd, State.takeError]

theorem step_of_decode {w : Word} {i : Instr} (hm : s.mode = .running) (hf : s.fetchWord = .ok w)
    (hd : decodeWord w = .ok i) : step s = exec i s.advancePc := by
  simp only [step, hm, hf, hd]

theorem State.fetchWord_of_pc_le (hpc : s.pc.toNat ≤ 4094) :
    s.fetchWord = .ok (beWord (s.readByte s.pc.toNat) (s.readByte (s.pc.toNat + 1))) := by
  rcases s.fetchWord_cases with ⟨-, e⟩ | ⟨hge, -⟩
  · exact e
  · omega

/-- Settles O1: the fetch delivers the word at PC, and the word decodes. -/
theorem stepRunsDecodedInstruction : Obligations.StepRunsDecodedInstruction :=
  fun _ _ hm hpc hd => step_of_decode hm (State.fetchWord_of_pc_le hpc) hd

/-- An outcome known to be a next state is that next state. -/
theorem AnswersNext.of_eq_next {r : Result} {P : State → Prop} (h : AnswersNext r P)
    (e : r = .next t) : P t := by
  obtain ⟨u, hu, hP⟩ := h
  rw [e] at hu
  cases hu
  exact hP

/-- Settles O53: from the step lemma of the schedules, which covers a wait, a failed fetch, an unknown
word and every instruction. -/
theorem everyStepKeepsInvariant : Obligations.EveryStepKeepsInvariant :=
  fun _ _ hs e => hs.step_answersInv.of_eq_next e

/-! ## A waiting step (R30, R120, R121) -/

theorem stepAwaiting_of_noKey (x : Reg) (h : ∀ k : Reg, s.key[k] = false) :
    stepAwaiting x s = .next s := by
  simp only [stepAwaiting, State.lowestPressed_none.2 h]

theorem stepAwaiting_of_leastPressed (x : Reg) {k0 : Reg} (h : s.LeastPressed k0) :
    stepAwaiting x s = .next ((s.deliverKey x k0).advancePc.setMode .running) := by
  simp only [stepAwaiting, State.lowestPressed_iff_leastPressed.2 h]

/-- Settles O4: with no key latched the step is a wait; with a least key it is the delivery of it, which
writes V and KEY, followed by the advance and the return to Running. -/
theorem waitingStepDeliversLowestKey : Obligations.WaitingStepDeliversLowestKey := by
  intro s x hm
  rw [step_of_awaiting hm]
  refine ⟨stepAwaiting_of_noKey x, fun k0 hk0 => ⟨_, stepAwaiting_of_leastPressed x hk0, ?_⟩⟩
  have hkey : ∀ k : Reg, (s.deliverKey x k0).key[k] = s.keyAfterEffect k0 k := s.deliverKey_key x k0
  rw [State.deliverKey_eq] at hkey ⊢
  exact ⟨rfl, hkey, rfl, State.sameMemory_of_eq rfl rfl⟩

/-! ## What each instruction may write (R12) -/

/-- The clauses of R12's table. A proof names the state the instruction writes; a field that is left out
is one the instruction does not touch. -/
structure ListedWrites (i : Instr) (s t : State) : Prop where
  v : ∀ k : Reg, i.writesV k = false → t.v[k] = s.v[k] := by exact fun _ _ => rfl
  ireg : t.ireg ≠ s.ireg → (∃ a, i = .setIndex a) ∨ ∃ x, i = .addIndex x ∨ i = .fontAddress x := by
    exact fun h => absurd rfl h
  sp : t.sp ≠ s.sp → i = .ret ∨ ∃ a, i = .call a := by exact fun h => absurd rfl h
  stack : t.stack ≠ s.stack → ∃ a, i = .call a := by exact fun h => absurd rfl h
  dt : t.dt ≠ s.dt → ∃ x, i = .setDelay x := by exact fun h => absurd rfl h
  st : t.st ≠ s.st → ∃ x, i = .setSound x := by exact fun h => absurd rfl h
  mode : t.mode ≠ s.mode → ∃ x, i = .awaitKey x := by exact fun h => absurd rfl h
  fb : t.fb ≠ s.fb → i = .clearScreen ∨ ∃ x y n, i = .draw x y n := by exact fun h => absurd rfl h
  key : t.key ≠ s.key → s.params.latchEffect ≠ .none ∧ ∃ x, i = .awaitKey x := by
    exact fun h => absurd rfl h
  mem : t.mem ≠ s.mem → ∃ x, i = .bcd x ∨ i = .storeRegs x := by exact fun h => absurd rfl h
  draws : t.draws ≠ s.draws → ∃ x nn, i = .randAnd x nn := by exact fun h => absurd rfl h
  pc : t.pc ≠ s.pc → i = .ret ∨ (∃ a, i = .jump a ∨ i = .call a ∨ i = .jumpOffset a) ∨
      (∃ x nn, i = .skipEqImm x nn ∨ i = .skipNeqImm x nn) ∨
      (∃ x y, i = .skipEqReg x y ∨ i = .skipNeqReg x y) ∨
      ∃ x, i = .skipKeyPressed x ∨ i = .skipKeyNotPressed x ∨ i = .awaitKey x := by
    exact fun h => absurd rfl h
  params : t.params = s.params := by exact rfl

section Writers

variable {i : Instr}

theorem getElem_set_of_ne {v : Vector Byte 16} {x k : Reg} (b : Byte) (h : (k == x) = false) :
    (v.set x b)[k] = v[k] := by
  have hne : (x : Nat) ≠ k := fun e => by simp [Fin.ext e] at h
  simp [hne]

theorem ListedWrites.setV {x : Reg} (hi : ∀ k, i.writesV k = false → (k == x) = false) (b : Byte) :
    ListedWrites i s (s.setV x b) :=
  { v := fun k hk => getElem_set_of_ne b (hi k hk) }

theorem ListedWrites.setResultAndFlag {x : Reg} (hi : ∀ k, i.writesV k = (k == x || k == vF))
    (r : Byte) (f : Bool) : ListedWrites i s (s.setResultAndFlag x r f) where
  v k hk := by
    rw [hi, Bool.or_eq_false_iff] at hk
    obtain ⟨hx, hF⟩ := hk
    exact (getElem_set_of_ne _ hF).trans (getElem_set_of_ne r hx)

/-- An error writes none of the listed state, whatever the instruction is. -/
theorem ListedWrites.recordError (e : MachineError) : ListedWrites i s (s.recordError e) := {}

theorem State.takeError_answersListed (s : State) (e : MachineError) :
    AnswersNext (s.takeError e) (ListedWrites i s) :=
  ⟨_, s.takeError_eq e, .recordError e⟩

/-- A skip writes PC or nothing. -/
theorem State.skipIf_answers {P : State → Prop} (c : Bool) (hs : P s) (hskip : P s.advancePc) :
    AnswersNext (s.skipIf c) P := by
  cases c with
  | false => exact ⟨_, rfl, hs⟩
  | true => exact ⟨_, rfl, hskip⟩

/-- Under the latch effect `none` the latch is not written (R121). -/
theorem State.deliverKey_key_of_none {x k0 : Reg} (h : s.params.latchEffect = .none) :
    (s.deliverKey x k0).key = s.key :=
  Vector.ext fun k hk => by
    simpa [State.keyAfterEffect, h] using s.deliverKey_key x k0 ⟨k, hk⟩

theorem execCall_answersListed (s : State) (addr : Addr) :
    AnswersNext (execCall addr s) (ListedWrites (.call addr) s) := by
  unfold execCall
  rcases s.push_cases s.pc with ⟨_, e⟩ | ⟨-, e⟩
  · rw [e]
    exact ⟨_, rfl, { sp := fun _ => .inr ⟨addr, rfl⟩, stack := fun _ => ⟨addr, rfl⟩,
                     pc := fun _ => by simp }⟩
  · rw [e]
    exact s.takeError_answersListed _

theorem execDraw_answersListed (s : State) (x y : Reg) (n : Fin 16) :
    AnswersNext (execDraw x y n s) (ListedWrites (.draw x y n) s) := by
  unfold execDraw
  cases s.memRead .memRead s.base n.val with
  | ok rows => exact ⟨_, rfl, { v := fun k hk => getElem_set_of_ne _ hk
                                fb := fun _ => .inr ⟨x, y, n, rfl⟩ }⟩
  | error e => exact s.takeError_answersListed e

theorem ListedWrites.loadPrefix (x : Reg) (bs : List Byte) :
    ListedWrites (.loadRegs x) s (s.loadPrefix x bs) := by
  have hv : ∀ k : Reg, Instr.writesV (.loadRegs x) k = false → (s.loadPrefix x bs).v[k] = s.v[k] :=
    fun k hk => by rw [State.loadPrefix_getElem, if_neg (of_decide_eq_false hk)]
  rw [(s.onlyV_loadPrefix x bs).1]
  exact { v := hv }

theorem execLoadRegs_answersListed (s : State) (x : Reg) :
    AnswersNext (execLoadRegs x s) (ListedWrites (.loadRegs x) s) := by
  unfold execLoadRegs
  cases s.memRead .memRead s.base (x.val + 1) with
  | ok bs => exact ⟨_, rfl, .loadPrefix x bs⟩
  | error e => exact s.takeError_answersListed e

theorem ListedWrites.writeBytes (hi : ∃ x, i = .bcd x ∨ i = .storeRegs x) (a : Nat)
    (bs : List Byte) : ListedWrites i s (s.writeBytes a bs) := by
  rw [State.writeBytes_eq]
  exact { mem := fun _ => hi }

theorem State.storeAtIndex_answersListed (s : State) {bs : List Byte} (hbs : bs ≠ [])
    (hi : ∃ x, i = .bcd x ∨ i = .storeRegs x) :
    AnswersNext (s.storeAtIndex bs) (ListedWrites i s) := by
  rcases s.storeAtIndex_cases bs hbs with ⟨-, e⟩ | ⟨-, e⟩
  · exact ⟨_, e, .writeBytes hi _ _⟩
  · exact ⟨_, e, .recordError _⟩

theorem execSkipKey_answersListed (s : State) (x : Reg) :
    AnswersNext (execSkipKeyPressed x s) (ListedWrites (.skipKeyPressed x) s) ∧
      AnswersNext (execSkipKeyNotPressed x s) (ListedWrites (.skipKeyNotPressed x) s) := by
  unfold execSkipKeyPressed execSkipKeyNotPressed
  cases s.keyOperand x with
  | ok k => exact ⟨State.skipIf_answers _ {} { pc := fun _ => by simp },
      State.skipIf_answers _ {} { pc := fun _ => by simp }⟩
  | error e => exact ⟨s.takeError_answersListed e, s.takeError_answersListed e⟩

theorem ListedWrites.deliverKey (x k0 : Reg) : ListedWrites (.awaitKey x) s (s.deliverKey x k0) := by
  have hkey : (s.deliverKey x k0).key ≠ s.key → s.params.latchEffect ≠ .none :=
    fun hne hnone => hne (State.deliverKey_key_of_none hnone)
  rw [State.deliverKey_eq] at hkey ⊢
  exact { v := fun k hk => getElem_set_of_ne _ hk, key := fun hne => ⟨hkey hne, x, rfl⟩ }

theorem execAwaitKey_answersListed (s : State) (x : Reg) :
    AnswersNext (execAwaitKey x s) (ListedWrites (.awaitKey x) s) := by
  unfold execAwaitKey
  cases s.lowestPressed with
  | none => exact ⟨_, rfl, { mode := fun _ => ⟨x, rfl⟩, pc := fun _ => by simp }⟩
  | some k0 => exact ⟨_, rfl, .deliverKey x k0⟩

/-- A return pops, or errs, or stops on a stack pointer that names no entry. -/
theorem execRet_answersListed_or_stops (s : State) :
    AnswersNext (execRet s) (ListedWrites .ret s) ∨
      16 < s.sp.toNat ∧ execRet s = .fault .stackPointerOutOfRange := by
  unfold execRet
  rcases s.pop_cases fun t s' => .next (s'.setPc t) with ⟨-, e⟩ | ⟨_, -, e⟩ | hstop
  · exact .inl ⟨_, e, .recordError _⟩
  · exact .inl ⟨_, e, { sp := fun _ => .inl rfl, pc := fun _ => .inl rfl }⟩
  · exact .inr hstop

end Writers

/-- What an instruction can do: it answers a next state in which only what R12 lists has changed, or it
is a return that stops on SP above 16. -/
theorem exec_answersListed_or_stops (i : Instr) (s : State) :
    AnswersNext (exec i s) (ListedWrites i s) ∨
      16 < s.sp.toNat ∧ exec i s = .fault .stackPointerOutOfRange := by
  cases i with
  | ret => exact execRet_answersListed_or_stops s
  | clearScreen => exact .inl ⟨_, rfl, { fb := fun _ => .inl rfl }⟩
  | jump | jumpOffset => exact .inl ⟨_, rfl, { pc := fun _ => by simp }⟩
  | call addr => exact .inl (execCall_answersListed s addr)
  | skipEqImm | skipNeqImm | skipEqReg | skipNeqReg =>
    exact .inl (State.skipIf_answers _ {} { pc := fun _ => by simp })
  | skipKeyPressed x => exact .inl (execSkipKey_answersListed s x).1
  | skipKeyNotPressed x => exact .inl (execSkipKey_answersListed s x).2
  | setImm | addImm | copy | orReg | andReg | xorReg | readDelay =>
    exact .inl ⟨_, rfl, .setV (fun _ hk => hk) _⟩
  | addReg | subReg | subRegRev | shiftRight | shiftLeft =>
    exact .inl ⟨_, rfl, .setResultAndFlag (fun _ => rfl) _ _⟩
  | randAnd x nn =>
    exact .inl ⟨_, rfl, { v := fun _ hk => getElem_set_of_ne _ hk, draws := fun _ => ⟨x, nn, rfl⟩ }⟩
  | setIndex addr => exact .inl ⟨_, rfl, { ireg := fun _ => .inl ⟨addr, rfl⟩ }⟩
  | addIndex x => exact .inl ⟨_, rfl, { ireg := fun _ => .inr ⟨x, .inl rfl⟩ }⟩
  | fontAddress x => exact .inl ⟨_, rfl, { ireg := fun _ => .inr ⟨x, .inr rfl⟩ }⟩
  | setDelay x => exact .inl ⟨_, rfl, { dt := fun _ => ⟨x, rfl⟩ }⟩
  | setSound x => exact .inl ⟨_, rfl, { st := fun _ => ⟨x, rfl⟩ }⟩
  | draw x y n => exact .inl (execDraw_answersListed s x y n)
  | awaitKey x => exact .inl (execAwaitKey_answersListed s x)
  | bcd x => exact .inl (s.storeAtIndex_answersListed (List.cons_ne_nil _ _) ⟨x, .inl rfl⟩)
  | storeRegs x => exact .inl (s.storeAtIndex_answersListed (s.regPrefix_ne_nil x) ⟨x, .inr rfl⟩)
  | loadRegs x => exact .inl (execLoadRegs_answersListed s x)
  | reserved0NNN => exact .inl (s.takeError_answersListed _)

/-- Settles O50: the next state of an instruction differs only where R12 lists it. -/
theorem onlyListedInstructionsWrite : Obligations.OnlyListedInstructionsWrite := by
  intro i s t e
  rcases exec_answersListed_or_stops i s with h | ⟨-, hstop⟩
  · obtain ⟨v, ireg, sp, stack, dt, st, mode, fb, key, mem, draws, pc, params⟩ := h.of_eq_next e
    exact ⟨v, ireg, sp, stack, dt, st, mode, fb, key, mem, draws, pc, params⟩
  · rw [e] at hstop
    cases hstop

/-! ## Where a step stops (R19) -/

theorem step_next_or_stops (s : State) :
    (∃ t, step s = .next t) ∨ 16 < s.sp.toNat ∧ step s = .fault .stackPointerOutOfRange := by
  rcases step_cases s with ⟨x, -, e⟩ | ⟨-, -, e⟩ | ⟨w, -, -, -, -, -, e⟩ |
    ⟨-, i, -, -, -, -, e⟩
  · rw [e]
    rcases stepAwaiting_cases x s with ⟨-, e'⟩ | ⟨k0, -, e'⟩
    · exact .inl ⟨_, e'⟩
    · exact .inl ⟨_, e'⟩
  · exact .inl ⟨_, e⟩
  · exact .inl ⟨_, e⟩
  · rw [e]
    exact (exec_answersListed_or_stops i s.advancePc).imp_left fun ⟨t, ht, _⟩ => ⟨t, ht⟩

/-- Settles O55: every step answers a next state but a return with SP above 16. -/
theorem stepStopsOnlyAboveStackTop : Obligations.StepStopsOnlyAboveStackTop := by
  intro s
  rcases step_next_or_stops s with ⟨t, e⟩ | ⟨hsp, e⟩
  · rw [e]
    exact ⟨fun _ => nofun, fun _ => nofun⟩
  · rw [e]
    exact ⟨fun _ _ => hsp, fun _ => nofun⟩

/-! ## The sound timer is not read (R28) -/

/-- An outcome with another value of ST in its next state. -/
def withSound (b : Byte) : Result → Result
  | .next t => .next (t.setSt b)
  | .fault r => .fault r
  | .refused r => .refused r

section Sound

variable (s) (b : Byte)

theorem State.memRead_setSt (cause : BoundsCause) (a n : Nat) :
    (s.setSt b).memRead cause a n = s.memRead cause a n := rfl

theorem State.base_setSt : (s.setSt b).base = s.base := rfl

theorem State.keyOperand_setSt (x : Reg) : (s.setSt b).keyOperand x = s.keyOperand x := rfl

theorem State.lowestPressed_setSt : (s.setSt b).lowestPressed = s.lowestPressed := rfl

theorem State.writeBytes_setSt (a : Nat) (bs : List Byte) :
    (s.setSt b).writeBytes a bs = (s.writeBytes a bs).setSt b := by
  induction bs generalizing s a with
  | nil => rfl
  | cons c bs ih => exact ih (s.writeByte a c) (a + 1)

theorem State.deliverKey_setSt (x k0 : Reg) :
    (s.setSt b).deliverKey x k0 = (s.deliverKey x k0).setSt b := by
  have hkey : ((s.setSt b).applyLatchEffect k0).key = (s.applyLatchEffect k0).key := by
    unfold State.applyLatchEffect
    rw [State.setSt_params]
    cases s.params.latchEffect <;> rfl
  rw [State.deliverKey_eq, State.deliverKey_eq, hkey]
  rfl

theorem State.skipIf_setSt (c : Bool) : (s.setSt b).skipIf c = withSound b (s.skipIf c) := by
  cases c <;> rfl

theorem State.storeAtIndex_setSt (bs : List Byte) :
    (s.setSt b).storeAtIndex bs = withSound b (s.storeAtIndex bs) := by
  unfold State.storeAtIndex State.memWrite
  rw [State.base_setSt, State.writeBytes_setSt]
  cases inBounds s.base bs.length <;> rfl

theorem execCall_setSt (addr : Addr) :
    execCall addr (s.setSt b) = withSound b (execCall addr s) := by
  have hpush : (s.setSt b).push s.pc = (s.push s.pc).map fun t => t.setSt b := by
    unfold State.push
    rw [State.setSt_sp]
    split <;> rfl
  unfold execCall
  rw [State.setSt_pc, hpush]
  cases s.push s.pc <;> rfl

theorem execRet_setSt : execRet (s.setSt b) = withSound b (execRet s) := by
  unfold execRet State.pop
  rw [State.setSt_sp]
  split
  case isTrue => rfl
  case isFalse => split <;> rfl

theorem execDraw_setSt (x y : Reg) (n : Fin 16) :
    execDraw x y n (s.setSt b) = withSound b (execDraw x y n s) := by
  unfold execDraw
  rw [State.memRead_setSt, State.base_setSt]
  cases s.memRead .memRead s.base n.val <;> rfl

theorem execLoadRegs_setSt (x : Reg) :
    execLoadRegs x (s.setSt b) = withSound b (execLoadRegs x s) := by
  unfold execLoadRegs
  rw [State.memRead_setSt, State.base_setSt]
  cases s.memRead .memRead s.base (x.val + 1) <;> rfl

theorem execSkipKey_setSt (x : Reg) :
    execSkipKeyPressed x (s.setSt b) = withSound b (execSkipKeyPressed x s) ∧
      execSkipKeyNotPressed x (s.setSt b) = withSound b (execSkipKeyNotPressed x s) := by
  unfold execSkipKeyPressed execSkipKeyNotPressed
  rw [State.keyOperand_setSt]
  cases s.keyOperand x with
  | ok k => exact ⟨s.skipIf_setSt b _, s.skipIf_setSt b _⟩
  | error e => exact ⟨rfl, rfl⟩

theorem execAwaitKey_setSt (x : Reg) :
    execAwaitKey x (s.setSt b) = withSound b (execAwaitKey x s) := by
  unfold execAwaitKey
  rw [State.lowestPressed_setSt]
  cases s.lowestPressed with
  | none => rfl
  | some k0 => exact congrArg Host.Outcome.next (s.deliverKey_setSt b x k0)

theorem stepAwaiting_setSt (x : Reg) :
    stepAwaiting x (s.setSt b) = withSound b (stepAwaiting x s) := by
  unfold stepAwaiting
  rw [State.lowestPressed_setSt]
  cases s.lowestPressed with
  | none => rfl
  | some k0 =>
    simp only [State.deliverKey_setSt]
    rfl

/-- An instruction carries another value of ST through, or is set-sound, which overwrites it. -/
theorem exec_setSt (i : Instr) :
    exec i (s.setSt b) = withSound b (exec i s) ∨ exec i (s.setSt b) = exec i s := by
  cases i with
  | setSound => exact .inr rfl
  | clearScreen | jump | setImm | addImm | copy | orReg | andReg | xorReg | addReg | subReg | shiftRight
  | subRegRev | shiftLeft | setIndex | jumpOffset | randAnd | readDelay | setDelay | addIndex
  | fontAddress | reserved0NNN => exact .inl rfl
  | skipEqImm | skipNeqImm | skipEqReg | skipNeqReg => exact .inl (s.skipIf_setSt b _)
  | skipKeyPressed x => exact .inl (execSkipKey_setSt s b x).1
  | skipKeyNotPressed x => exact .inl (execSkipKey_setSt s b x).2
  | ret => exact .inl (execRet_setSt s b)
  | call addr => exact .inl (execCall_setSt s b addr)
  | draw x y n => exact .inl (execDraw_setSt s b x y n)
  | awaitKey x => exact .inl (execAwaitKey_setSt s b x)
  | bcd | storeRegs => exact .inl (s.storeAtIndex_setSt b _)
  | loadRegs x => exact .inl (execLoadRegs_setSt s b x)

/-- Mode, PC and the bytes fetched do not depend on ST, so a step takes the same case. -/
theorem step_setSt : step (s.setSt b) = withSound b (step s) ∨ step (s.setSt b) = step s := by
  cases hm : s.mode with
  | awaitingKey x =>
    rw [step_of_awaiting hm, step_of_awaiting (s := s.setSt b) hm]
    exact .inl (stepAwaiting_setSt s b x)
  | running =>
    cases hf : s.fetchWord with
    | error e =>
      rw [step_of_fetch_error hm hf, step_of_fetch_error (s := s.setSt b) hm hf]
      exact .inl rfl
    | ok w =>
      cases hd : decodeWord w with
      | error f =>
        rw [step_of_decode_error hm hf hd, step_of_decode_error (s := s.setSt b) hm hf hd]
        exact .inl rfl
      | ok i =>
        rw [step_of_decode hm hf hd, step_of_decode (s := s.setSt b) hm hf hd]
        exact exec_setSt s.advancePc b i

end Sound

/-- Settles O45: the step keeps the other value of ST, or has overwritten it. -/
theorem soundTimerHasNoEffect : Obligations.SoundTimerHasNoEffect := by
  intro s t b e
  rcases step_setSt s b with h | h
  · rw [e] at h
    exact ⟨b, h, .inl rfl⟩
  · rw [e] at h
    exact ⟨t.st, h, .inr rfl⟩

/-! ## The stack (R19 to R21, R80, R82) -/

theorem zextAddr_eq_setWidth (addr : Addr) : zextAddr addr = addr.setWidth 16 :=
  BitVec.ofNat_toNat 16 addr

/-- Settles O14: the two cases of a push. -/
theorem callPushesPcAndJumps : Obligations.CallPushesPcAndJumps := by
  intro addr s
  rw [← zextAddr_eq_setWidth]
  rcases s.push_cases s.pc with ⟨hsp, e⟩ | ⟨hsp, e⟩
  · refine ⟨fun _ => ?_, fun hfull => by omega⟩
    simp only [exec, execCall, e]
    rfl
  · refine ⟨fun hfree => by omega, fun _ => ?_⟩
    simp only [exec, execCall, e]
    rfl

/-- Settles O15: the cases of a pop; the hypothesis on the entry excludes the stop. -/
theorem returnPopsPc : Obligations.ReturnPopsPc := by
  intro s
  rcases s.pop_cases fun t s' => .next (s'.setPc t) with ⟨h0, e⟩ | ⟨_, h0, e⟩ | ⟨hsp, -⟩
  · exact ⟨fun hpos _ => absurd hpos (by simp [h0]), fun _ => e⟩
  · exact ⟨fun _ _ => e, fun h => absurd h h0⟩
  · exact ⟨fun _ h => by omega, fun h => absurd hsp (by simp [h])⟩

/-! ## The flag values (R11) -/

theorem flagByte_eq_zero_or_one (f : Bool) : flagByte f = 0 ∨ flagByte f = 1 := by
  cases f with
  | false => exact .inl rfl
  | true => exact .inr rfl

/-- The flag is written last, so VF holds it whatever the destination is. -/
theorem State.setFlag_vF (s : State) (f : Bool) : (s.setFlag f).v[vF] = flagByte f := by
  simp

theorem State.setFlag_zero_or_one (s : State) (f : Bool) :
    (s.setFlag f).v[vF] = 0 ∨ (s.setFlag f).v[vF] = 1 := by
  rw [State.setFlag_vF]
  exact flagByte_eq_zero_or_one f

/-- Settles O51: each flag writer ends in the write of a flag; a draw that errs records the error. -/
theorem flagIsZeroOrOne : Obligations.FlagIsZeroOrOne := by
  intro x y n s
  constructor
  · intro i hi
    simp only [List.mem_cons, List.not_mem_nil, or_false] at hi
    rcases hi with rfl | rfl | rfl | rfl | rfl <;>
      exact ⟨_, rfl, State.setFlag_zero_or_one _ _⟩
  · intro t e herr
    have hdraw : execDraw x y n s = .next t := e
    unfold execDraw at hdraw
    cases hread : s.memRead .memRead s.base n.val with
    | ok rows =>
      rw [hread] at hdraw
      cases hdraw
      exact State.setFlag_zero_or_one _ _
    | error e' =>
      rw [hread] at hdraw
      cases hdraw
      exact absurd herr (List.cons_ne_self _ _)

/-! ## The framebuffer's index mapping (R25) -/

theorem cellColumn_val (i : Fin 2048) : (cellColumn i).val = i.val % 64 := rfl

theorem cellRow_val (i : Fin 2048) : (cellRow i).val = i.val / 64 :=
  Nat.mod_eq_of_lt (by omega)

/-- Settles O40: the mapping, and its inverse at a cell given by its coordinates. -/
theorem framebufferIndexMapping : Obligations.FramebufferIndexMapping := by
  refine ⟨fun i => ⟨cellColumn_val i, cellRow_val i⟩, fun s px py h => ?_⟩
  have hcol : cellColumn ⟨64 * py.val + px.val, h⟩ = px :=
    Fin.ext (by rw [cellColumn_val]; simp only; omega)
  have hrow : cellRow ⟨64 * py.val + px.val, h⟩ = py :=
    Fin.ext (by rw [cellRow_val]; simp only; omega)
  unfold State.observeCell State.fbCell
  rw [hcol, hrow]

/-! ## Reset (R31, R160) -/

/-- Unlisted addresses 0 to 79 hold the glyph table, five bytes a glyph (R46, R47). -/
theorem Memory.unlisted_glyph (font : Font) (g : Fin 16) (r : Fin 5) :
    Memory.unlisted font (5 * g.val + r.val) = font[g][r] := by
  have hlt : 5 * g.val + r.val < fontSize := by simp only [fontSize]; omega
  have hg : (5 * g.val + r.val) / 5 = g.val := by omega
  have hr : (5 * g.val + r.val) % 5 = r.val := by omega
  simp only [Memory.unlisted, dif_pos hlt, hg, hr, Fin.getElem_fin]

theorem Memory.unlisted_zero (font : Font) {a : Nat} (h : fontSize ≤ a) :
    Memory.unlisted font a = 0 :=
  dif_neg (Nat.not_lt.2 h)

theorem State.hostReset_readByte (s : State) (a : Nat) :
    s.hostReset.readByte a = Memory.unlisted s.params.font a := rfl

/-- A reset gives the table of R31 with the glyph table the parameters hold. -/
theorem State.hostReset_isReset (s : State) : s.hostReset.IsReset where
  font g r := (s.hostReset_readByte _).trans (Memory.unlisted_glyph s.params.font g r)
  zero _ ha _ := (s.hostReset_readByte _).trans (Memory.unlisted_zero s.params.font ha)
  v k := by simp [State.reset]
  ireg := rfl
  pc := rfl
  sp := rfl
  stack k := by simp [State.reset]
  dt := rfl
  st := rfl
  mode := rfl
  fb i := Framebuffer.cell_blank (cellColumn i) (cellRow i)
  key k := by simp [State.reset]

/-- Settles O48: the state after construction is its own reset, and a reset keeps the model's own
parameters and draw counter. -/
theorem resetGivesTheListedState : Obligations.ResetGivesTheListedState :=
  ⟨State.reset.hostReset_isReset, fun s => ⟨_, rfl, s.hostReset_isReset, rfl, rfl⟩⟩

/-- Settles O52: a reset of the host meets the invariant from any state, the reset state among them. -/
theorem resetMeetsInvariant : Obligations.ResetMeetsInvariant :=
  State.reset.hostReset_inv

end Sys2Proof.Machine
end

section
/-!
PROOF. The statements about memory and the fetch (spec/20_memory.md R43, R45, R55): what a fetch
delivers after a store, whichever operation has stored, and after the host has placed a word.
-/

namespace Sys2Proof.Machine

variable {s : State}

/-! ## The fetch after a store (R55) -/

/-- A store of bytes in range, by whatever operation, is seen by the next fetch. -/
theorem State.fetchWord_writeBytes {a : Nat} {bs : List Byte}
    (hwf : Memory.wf s.params.font s.mem = true) (hpc : s.pc.toNat ≤ 4094)
    (ha : a + bs.length ≤ memSize) :
    (s.writeBytes a bs).fetchWord = .ok (s.wordAfterStore a bs) :=
  State.fetchWord_of_onlyBytes (State.onlyBytes_writeBytes ha hwf) hpc

theorem State.storeAtIndex_of_le {bs : List Byte} (hb : s.base + bs.length ≤ memSize) :
    s.storeAtIndex bs = .next (s.writeBytes s.base bs) := by
  have hin : inBounds s.base bs.length = true := inBounds_iff.2 (.inr hb)
  simp only [State.storeAtIndex, State.memWrite, if_pos hin]

theorem State.load_of_le {rom : List Byte} (h : rom.length ≤ progMax) :
    s.load rom = s.writeBytes progBase rom :=
  if_pos h

/-- Settles O36: store-regs, bcd and load each end in a store of bytes in range. -/
theorem storedBytesAreFetched : Obligations.StoredBytesAreFetched := by
  intro s hwf hpc
  refine ⟨fun x hx => ?_, fun x hx => ?_, fun rom hrom => ?_⟩
  · have hb : s.base + (s.regPrefix x).length ≤ memSize := by
      rw [State.regPrefix_length]
      exact hx
    exact ⟨_, State.storeAtIndex_of_le hb, State.fetchWord_writeBytes hwf hpc hb⟩
  · have hb : s.base + (bcdDigits s.v[x]).length ≤ memSize := hx
    exact ⟨_, State.storeAtIndex_of_le hb, State.fetchWord_writeBytes hwf hpc hb⟩
  · have hb : progBase + rom.length ≤ memSize := Nat.add_le_add_left hrom progBase
    exact ⟨_, congrArg Host.Outcome.next (State.load_of_le hrom),
      State.fetchWord_writeBytes hwf hpc hb⟩

/-! ## The fetch of a placed word (R43, R45) -/

/-- The address chosen for a placed word is one where a fetch is possible. -/
theorem State.fetchAddress_le (s : State) : s.fetchAddress.toNat ≤ 4094 := by
  unfold State.fetchAddress
  split
  case isTrue h => exact Nat.le_of_lt_succ (Nat.lt_of_succ_lt_succ h)
  case isFalse => decide

/-- Two bytes stored at PC itself are the bytes of the next word, high byte first. -/
theorem State.wordAfterStore_pc (s : State) (hi lo : Byte) :
    s.wordAfterStore s.pc.toNat [hi, lo] = beWord hi lo := by
  simp [State.wordAfterStore, State.byteAfterStore]

/-- Placing a word writes memory only, after Running and PC have been set. -/
theorem State.placeWord_mode (s : State) (w : Word) : (s.placeWord w).mode = .running := by
  rw [State.placeWord, State.writeBytes_eq, State.setPc_mode, State.setMode_mode]

theorem State.fetchWord_placeWord (hwf : Memory.wf s.params.font s.mem = true) (w : Word) :
    (s.placeWord w).fetchWord = .ok w := by
  have hpc : s.fetchAddress.toNat ≤ 4094 := s.fetchAddress_le
  have hb : s.fetchAddress.toNat + [hiByte w, loByte w].length ≤ memSize :=
    Nat.add_le_add_right hpc 2
  calc (s.placeWord w).fetchWord
      = .ok (((s.setMode .running).setPc s.fetchAddress).wordAfterStore s.fetchAddress.toNat
          [hiByte w, loByte w]) := State.fetchWord_writeBytes hwf hpc hb
    _ = .ok (beWord (hiByte w) (loByte w)) :=
        congrArg Except.ok (State.wordAfterStore_pc _ (hiByte w) (loByte w))
    _ = .ok w := by rw [beWord_bytes]

/-- Settles O12: the table's word has 16 bits, so it is placed as it stands. -/
theorem placedWordIsFetched : Obligations.PlacedWordIsFetched := by
  intro s w hwf hw
  have hmod : w % 2 ^ 16 = w := Nat.mod_eq_of_lt hw
  rw [State.withFetchWord, hmod]
  exact ⟨State.placeWord_mode s _, State.fetchWord_placeWord hwf _⟩

end Sys2Proof.Machine
end

section
/-!
PROOF. The statements about the encoding (spec/30_encoding.md R60 to R72): the decoder reads back what
the encoder writes, which words decode and to which row of the opcode map, and the DecodeError of the
words that do not.
-/

namespace Sys2Proof

/-! ## The fields of an encoded word (R61, R62) -/

section EncodedFields

variable {op : Nat} (h : op < 16) (x y : Reg) (n : Fin 16) (nn : Byte) (addr : Addr)
include h

@[simp] theorem nibble0_toNat_encodeAddr : (nibble0 (encodeAddr op addr)).toNat = op := by
  have := addr.isLt
  rw [nibble0_toNat, encodeAddr_toNat h]
  omega

@[simp] theorem nibble0_toNat_encodeXNN : (nibble0 (encodeXNN op x nn)).toNat = op := by
  have := nn.isLt
  rw [nibble0_toNat, encodeXNN_toNat h]
  omega

@[simp] theorem nibble0_toNat_encodeXYN : (nibble0 (encodeXYN op x y n)).toNat = op := by
  rw [nibble0_toNat, encodeXYN_toNat h]
  omega

@[simp] theorem fieldAddr_encodeAddr : fieldAddr (encodeAddr op addr) = addr := by
  apply BitVec.eq_of_toNat_eq
  have := addr.isLt
  rw [fieldAddr_toNat, encodeAddr_toNat h]
  omega

@[simp] theorem fieldX_encodeXNN : fieldX (encodeXNN op x nn) = x := by
  apply Fin.ext
  have := nn.isLt
  rw [fieldX_val, encodeXNN_toNat h]
  omega

@[simp] theorem fieldNN_encodeXNN : fieldNN (encodeXNN op x nn) = nn := by
  apply BitVec.eq_of_toNat_eq
  have := nn.isLt
  rw [fieldNN_toNat, encodeXNN_toNat h]
  omega

@[simp] theorem fieldX_encodeXYN : fieldX (encodeXYN op x y n) = x := by
  apply Fin.ext
  rw [fieldX_val, encodeXYN_toNat h]
  omega

@[simp] theorem fieldY_encodeXYN : fieldY (encodeXYN op x y n) = y := by
  apply Fin.ext
  rw [fieldY_val, encodeXYN_toNat h]
  omega

@[simp] theorem fieldN_encodeXYN : fieldN (encodeXYN op x y n) = n := by
  apply Fin.ext
  rw [fieldN_val, encodeXYN_toNat h]
  omega

@[simp] theorem nibble3_encodeXYN : nibble3 (encodeXYN op x y n) = BitVec.ofFin n :=
  congrArg BitVec.ofFin (fieldN_encodeXYN h x y n)

end EncodedFields

variable {w : Word} {i : Instr} {f : DecodeFailure}

/-! ## The row of a decoded word (R66): the fields a mask keeps, and the word of a row by its fields -/

theorem and_mask_family_of_nibble0 {op : Nat} (h0 : (nibble0 w).toNat = op) :
    w &&& 0xF000 = BitVec.ofNat 16 (4096 * op) := by
  rw [Laws.and_mask_family, ← nibble0_toNat, h0]

theorem and_mask_family_last_of_nibbles {op n : Nat} (h0 : (nibble0 w).toNat = op)
    (h3 : (nibble3 w).toNat = n) :
    w &&& 0xF00F = BitVec.ofNat 16 (4096 * op) ||| BitVec.ofNat 16 n := by
  rw [Laws.and_mask_family_last, ← nibble0_toNat, ← nibble3_toNat, h0, h3]

theorem and_mask_family_low_of_fields {op n : Nat} (h0 : (nibble0 w).toNat = op)
    (hn : (fieldNN w).toNat = n) :
    w &&& 0xF0FF = BitVec.ofNat 16 (4096 * op) ||| BitVec.ofNat 16 n := by
  rw [Laws.and_mask_family_low, ← nibble0_toNat, ← fieldNN_toNat, h0, hn]

theorem decodeFamily8_row (h0 : (nibble0 w).toNat = 0x8) (h : decodeFamily8 w = .ok i) :
    w &&& i.opcodeRow.1 = i.opcodeRow.2 := by
  unfold decodeFamily8 at h
  split at h <;> cases h
  all_goals exact and_mask_family_last_of_nibbles h0 ‹_›

theorem decodeFamilyE_row (h0 : (nibble0 w).toNat = 0xE) (h : decodeFamilyE w = .ok i) :
    w &&& i.opcodeRow.1 = i.opcodeRow.2 := by
  unfold decodeFamilyE at h
  split at h <;> cases h
  all_goals exact and_mask_family_low_of_fields h0 ‹_›

theorem decodeFamilyF_row (h0 : (nibble0 w).toNat = 0xF) (h : decodeFamilyF w = .ok i) :
    w &&& i.opcodeRow.1 = i.opcodeRow.2 := by
  unfold decodeFamilyF at h
  split at h <;> cases h
  all_goals exact and_mask_family_low_of_fields h0 ‹_›

/-- The word of a decoded instruction is in its row, the reserved row included. -/
theorem decodeWord_row (h : decodeWord w = .ok i) : w &&& i.opcodeRow.1 = i.opcodeRow.2 := by
  have hlt : (nibble0 w).toNat < 16 := (nibble0 w).isLt
  unfold decodeWord at h
  split at h
  case h_1 h0 =>
    split_ifs at h <;> cases h
    · subst w
      rfl
    · subst w
      rfl
    · exact and_mask_family_of_nibble0 h0
  case h_6 h0 | h_10 h0 =>
    split_ifs at h with h3
    cases h
    exact and_mask_family_last_of_nibbles h0 (congrArg BitVec.toNat h3)
  case h_9 h0 => exact decodeFamily8_row h0 h
  case h_15 h0 => exact decodeFamilyE_row h0 h
  case h_16 =>
    have h0 : (nibble0 w).toNat = 0xF := by simp only [imp_false] at *; omega
    exact decodeFamilyF_row h0 h
  all_goals
    cases h
    exact and_mask_family_of_nibble0 ‹_›

/-- A field that the mask of a row keeps whole is the field of the row's match. -/
theorem extractLsb'_of_row {m r : Word} {start len : Nat} (h : w &&& m = r)
    (hm : m.extractLsb' start len = BitVec.allOnes len) :
    w.extractLsb' start len = r.extractLsb' start len := by
  rw [← h, BitVec.extractLsb'_and, hm, BitVec.and_allOnes]

/-! ## The reserved row, and `decodeForm` by `decodeWord` (R64, R69) -/

theorem decodeWord_reserved (h0 : (nibble0 w).toNat = 0) (hclear : w ≠ 0x00E0) (hret : w ≠ 0x00EE) :
    decodeWord w = .ok (.reserved0NNN (fieldAddr w)) := by
  simp only [decodeWord, h0, if_neg hclear, if_neg hret]

theorem decodeWord_reserved_iff {addr : Addr} : decodeWord w = .ok (.reserved0NNN addr) ↔
    (nibble0 w = 0 ∧ w ≠ 0x00E0 ∧ w ≠ 0x00EE) ∧ addr = fieldAddr w := by
  constructor
  · intro h
    have hrow : w &&& 0xF000 = 0x0000 := decodeWord_row h
    have h0 : nibble0 w = 0 := extractLsb'_of_row hrow (by decide)
    have hclear : w ≠ 0x00E0 := by
      rintro rfl
      cases h
    have hret : w ≠ 0x00EE := by
      rintro rfl
      cases h
    rw [decodeWord_reserved (congrArg BitVec.toNat h0) hclear hret] at h
    cases h
    exact ⟨⟨h0, hclear, hret⟩, rfl⟩
  · rintro ⟨⟨h0, hclear, hret⟩, rfl⟩
    exact decodeWord_reserved (congrArg BitVec.toNat h0) hclear hret

theorem decodeForm_ok_iff : decodeForm w = .ok i ↔
    decodeWord w = .ok i ∧ ∀ addr, i ≠ .reserved0NNN addr := by
  unfold decodeForm
  split
  case h_1 addr h =>
    refine ⟨nofun, ?_⟩
    rintro ⟨hd, hi⟩
    cases h.symm.trans hd
    exact absurd rfl (hi addr)
  case h_2 h =>
    refine ⟨fun hd => ⟨hd, ?_⟩, fun hd => hd.1⟩
    rintro addr rfl
    exact h addr hd

theorem decodeForm_error_iff : decodeForm w = .error f ↔
    decodeWord w = .error f ∨ f = unknown w ∧ ∃ addr, decodeWord w = .ok (.reserved0NNN addr) := by
  unfold decodeForm
  split
  case h_1 addr h => simp [h, eq_comm]
  case h_2 h => exact ⟨.inl, fun hd => hd.resolve_right fun ⟨_, addr, hr⟩ => h addr hr⟩

/-! ## Decoding an encoded instruction -/

/-- The excluded words of the reserved row are those of the excluded addresses. -/
theorem encodeAddr_zero_ne {addr : Addr} (h : addr ≠ fieldAddr w) : encodeAddr 0 addr ≠ w := by
  rintro rfl
  exact h (fieldAddr_encodeAddr (by decide) addr).symm

theorem decodeWord_encode (hi : i.wellFormed = true) : decodeWord (encode i) = .ok i := by
  cases i with
  | clearScreen | ret => rfl
  | jump | call | setIndex | jumpOffset => simp [encode, decodeWord]
  | skipEqImm | skipNeqImm | setImm | addImm | randAnd => simp [encode, decodeWord]
  | skipEqReg | skipNeqReg | draw => simp [encode, decodeWord]
  | copy | orReg | andReg | xorReg | addReg | subReg | shiftRight | subRegRev | shiftLeft =>
    simp [encode, decodeWord, decodeFamily8]
  | skipKeyPressed | skipKeyNotPressed => simp [encode, decodeWord, decodeFamilyE]
  | readDelay | awaitKey | setDelay | setSound | addIndex | fontAddress | bcd | storeRegs | loadRegs =>
    simp [encode, decodeWord, decodeFamilyF]
  | reserved0NNN addr =>
    obtain ⟨hclear, hret⟩ : addr ≠ 0x0E0 ∧ addr ≠ 0x0EE := by simpa [Instr.wellFormed] using hi
    have h := decodeWord_reserved (nibble0_toNat_encodeAddr (by decide) addr)
      (encodeAddr_zero_ne hclear) (encodeAddr_zero_ne hret)
    rwa [fieldAddr_encodeAddr (by decide)] at h

theorem decode_encodeBytes (rest : List Byte) (h : decodeWord (encode i) = .ok i) :
    decode (encodeBytes i ++ rest) = .ok (i, rest) := by
  simp only [encodeBytes, List.cons_append, List.nil_append, decode, beWord_bytes, h]

/-- Settles O8: the bytes are those of the word, and each format's fields are read back from it. -/
theorem decodeOfEncodeIsIdentity : Obligations.DecodeOfEncodeIsIdentity := fun _ rest hi =>
  ⟨decodeWord_encode hi, decode_encodeBytes rest (decodeWord_encode hi)⟩

/-! ## The decoder and the opcode map (R66) -/

/-- A word of a row of the 34 forms decodes to an instruction of that row: the nibbles the mask keeps
lead the decoder to it. -/
theorem decodeForm_of_row (hi : ∀ addr, i ≠ .reserved0NNN addr)
    (h : w &&& i.opcodeRow.1 = i.opcodeRow.2) :
    ∃ j, decodeForm w = .ok j ∧ j.opcodeRow = i.opcodeRow := by
  cases i with
  | reserved0NNN addr => exact absurd rfl (hi addr)
  | clearScreen | ret =>
    have hw : w = _ := (BitVec.and_allOnes (x := w)).symm.trans h
    subst hw
    exact ⟨_, rfl, rfl⟩
  | jump | call | skipEqImm | skipNeqImm | setImm | addImm | setIndex | jumpOffset | randAnd | draw =>
    simp only [Instr.opcodeRow] at h
    have h0 : nibble0 w = nibble0 _ := extractLsb'_of_row h (by decide)
    simp [decodeForm, decodeWord, h0, nibble0_toNat, Instr.opcodeRow]
  | skipEqReg | skipNeqReg =>
    simp only [Instr.opcodeRow] at h
    have h0 : nibble0 w = nibble0 _ := extractLsb'_of_row h (by decide)
    have h3 : nibble3 w = 0 := extractLsb'_of_row h (by decide)
    simp [decodeForm, decodeWord, h0, h3, nibble0_toNat, Instr.opcodeRow]
  | copy | orReg | andReg | xorReg | addReg | subReg | shiftRight | subRegRev | shiftLeft =>
    simp only [Instr.opcodeRow] at h
    have h0 : nibble0 w = 8 := extractLsb'_of_row h (by decide)
    have h3 : nibble3 w = nibble3 _ := extractLsb'_of_row h (by decide)
    simp [decodeForm, decodeWord, decodeFamily8, h0, h3, nibble3_toNat, Instr.opcodeRow]
  | skipKeyPressed | skipKeyNotPressed =>
    simp only [Instr.opcodeRow] at h
    have h0 : nibble0 w = 0xE := extractLsb'_of_row h (by decide)
    have hn : fieldNN w = fieldNN _ := extractLsb'_of_row h (by decide)
    simp [decodeForm, decodeWord, decodeFamilyE, h0, hn, fieldNN_toNat, Instr.opcodeRow]
  | readDelay | awaitKey | setDelay | setSound | addIndex | fontAddress | bcd | storeRegs | loadRegs =>
    simp only [Instr.opcodeRow] at h
    have h0 : nibble0 w = 0xF := extractLsb'_of_row h (by decide)
    have hn : fieldNN w = fieldNN _ := extractLsb'_of_row h (by decide)
    simp [decodeForm, decodeWord, decodeFamilyF, h0, hn, fieldNN_toNat, Instr.opcodeRow]

theorem wellFormed_of_ne_reserved (hi : ∀ addr, i ≠ .reserved0NNN addr) : i.wellFormed = true := by
  cases i with
  | reserved0NNN addr => exact absurd rfl (hi addr)
  | _ => rfl

/-- Settles O9: a word of a row decodes to an instruction of that row, so it cannot fail, and two rows
that hold one word are the row of what it decodes to. -/
theorem decoderAgreesWithOpcodeMap : Obligations.DecoderAgreesWithOpcodeMap := by
  refine ⟨fun w i h => ?_, fun w f herr i hi hrow => ?_, fun w i j hi hj hrowi hrowj => ?_⟩
  · obtain ⟨hd, hi⟩ := decodeForm_ok_iff.1 h
    exact ⟨hi, wellFormed_of_ne_reserved hi, decodeWord_row hd⟩
  · obtain ⟨j, hd, -⟩ := decodeForm_of_row hi hrow
    simp [hd] at herr
  · obtain ⟨k, hd, hki⟩ := decodeForm_of_row hi hrowi
    obtain ⟨l, hd', hlj⟩ := decodeForm_of_row hj hrowj
    cases hd.symm.trans hd'
    exact hki.symm.trans hlj

/-! ## Which words fail (R68, R70) -/

theorem decodeFamily8_error_iff : decodeFamily8 w = .error f ↔
    f = unknown w ∧ nibble3 w ∈ [0x8, 0x9, 0xA, 0xB, 0xC, 0xD, 0xF] := by
  have hlt := (nibble3 w).isLt
  unfold decodeFamily8
  split <;> simp_all [← BitVec.toNat_inj, eq_comm (a := f)]
  omega

theorem decodeFamilyE_error_iff :
    decodeFamilyE w = .error f ↔ f = unknown w ∧ fieldNN w ∉ [0x9E, 0xA1] := by
  unfold decodeFamilyE
  split <;> simp_all [← BitVec.toNat_inj, eq_comm (a := f)]

theorem decodeFamilyF_error_iff : decodeFamilyF w = .error f ↔ f = unknown w ∧
    fieldNN w ∉ [0x07, 0x0A, 0x15, 0x18, 0x1E, 0x29, 0x33, 0x55, 0x65] := by
  unfold decodeFamilyF
  split <;> simp_all [← BitVec.toNat_inj, eq_comm (a := f)]

theorem decodeWord_error_iff : decodeWord w = .error f ↔ f = unknown w ∧
    ((nibble0 w = 0x5 ∧ nibble3 w ≠ 0) ∨
      (nibble0 w = 0x8 ∧ nibble3 w ∈ [0x8, 0x9, 0xA, 0xB, 0xC, 0xD, 0xF]) ∨
      (nibble0 w = 0x9 ∧ nibble3 w ≠ 0) ∨
      (nibble0 w = 0xE ∧ fieldNN w ∉ [0x9E, 0xA1]) ∨
      (nibble0 w = 0xF ∧ fieldNN w ∉ [0x07, 0x0A, 0x15, 0x18, 0x1E, 0x29, 0x33, 0x55, 0x65])) := by
  have hlt := (nibble0 w).isLt
  simp only [← BitVec.toNat_inj (x := nibble0 w)]
  interval_cases h0 : (nibble0 w).toNat <;>
    simp [decodeWord, h0, decodeFamily8_error_iff, decodeFamilyE_error_iff, decodeFamilyF_error_iff,
      eq_comm (a := f)]
  · split_ifs <;> simp
  all_goals split_ifs with h3 <;> simp [h3]

theorem decodeForm_error_eq_unknown (h : decodeForm w = .error f) : f = unknown w := by
  rcases decodeForm_error_iff.1 h with hd | ⟨hf, -⟩
  · exact (decodeWord_error_iff.1 hd).1
  · exact hf

/-- Settles O10: a failure is one of `decodeWord` or a word of the reserved row, and it carries the
nibbles in either case. -/
theorem failingWordsAreThoseListed : Obligations.FailingWordsAreThoseListed := by
  intro w
  constructor
  · rw [← unknown, decodeForm_error_iff, decodeWord_error_iff, or_comm]
    simp only [true_and, decodeWord_reserved_iff, exists_and_left, exists_eq, and_true]
  · cases hd : decodeForm w with
    | ok i => exact .inl ⟨i, rfl⟩
    | error f => exact .inr (congrArg Except.error (decodeForm_error_eq_unknown hd))

/-- Settles O7, by evaluating the decoder on the words. -/
theorem sampleWordsDecode : Obligations.SampleWordsDecode := by
  unfold Obligations.SampleWordsDecode
  decide

/-! ## The word of the reserved row (R69) -/

theorem encodeAddr_zero_fieldAddr (h0 : nibble0 w = 0) : encodeAddr 0 (fieldAddr w) = w := by
  apply BitVec.eq_of_toNat_eq
  have hfam : w.toNat / 4096 = 0 := (nibble0_toNat w).symm.trans (congrArg BitVec.toNat h0)
  rw [encodeAddr_toNat (by decide), fieldAddr_toNat]
  omega

theorem encodeAddr_zero_eq_setWidth (addr : Addr) : encodeAddr 0 addr = addr.setWidth 16 := by
  simp [encodeAddr, BitVec.ofNat_toNat]

theorem nibble0_encodeAddr_zero (addr : Addr) : nibble0 (encodeAddr 0 addr) = 0 :=
  BitVec.eq_of_toNat_eq (nibble0_toNat_encodeAddr (by decide) addr)

theorem extractLsb'_encodeAddr_zero (addr : Addr) {start len : Nat} (h : start + len ≤ 12) :
    (encodeAddr 0 addr).extractLsb' start len = addr.extractLsb' start len := by
  rw [encodeAddr_zero_eq_setWidth, BitVec.extractLsb'_setWidth_of_le (by omega)]

end Sys2Proof

namespace Sys2Proof.Machine

variable {s : State} {w : Word} {f : DecodeFailure}

/-! ## The DecodeError (R69, R70, R137) -/

theorem exec_reserved0NNN (addr : Addr) (s : State) : exec (.reserved0NNN addr) s =
    .next (s.recordError (decodeErrorOf (encodeAddr 0 addr))) := rfl

/-- A word that is no form errs in the decoder, or in the meaning of the reserved row, which is the
word's own DecodeError. -/
theorem step_of_decodeForm_error (hm : s.mode = .running) (hf : s.fetchWord = .ok w)
    (hd : decodeForm w = .error f) :
    step s = .next (s.advancePc.recordError (decodeErrorOf w)) := by
  rcases decodeForm_error_iff.1 hd with herr | ⟨-, addr, hres⟩
  · exact step_of_decode_error hm hf herr
  · obtain ⟨⟨h0, -, -⟩, rfl⟩ := decodeWord_reserved_iff.1 hres
    rw [step_of_decode hm hf hres, exec_reserved0NNN, encodeAddr_zero_fieldAddr h0]

/-- Settles O3: the fetch delivers the word at PC, and the step on it advances PC and records the
error. -/
theorem undecodableWordReturnsDecodeError : Obligations.UndecodableWordReturnsDecodeError := by
  rintro s w f hm hpc rfl hd
  exact step_of_decodeForm_error hm (State.fetchWord_of_pc_le hpc) hd

theorem decodeErrorOf_encodeAddr_zero (addr : Addr) : decodeErrorOf (encodeAddr 0 addr) =
    .decodeError 0 (addr.extractLsb' 8 4) (addr.extractLsb' 4 4) (addr.extractLsb' 0 4) := by
  rw [decodeErrorOf, nibble0_encodeAddr_zero, nibble1, nibble2, nibble3,
    extractLsb'_encodeAddr_zero addr (by decide), extractLsb'_encodeAddr_zero addr (by decide),
    extractLsb'_encodeAddr_zero addr (by decide)]

/-- Settles O11: the reserved row's words decode to its constructor, and the nibbles of the error are
those of its address. -/
theorem reservedRowReturnsDecodeError : Obligations.ReservedRowReturnsDecodeError := by
  refine ⟨fun w h0 hclear hret => ?_, fun addr s => ?_⟩
  · exact decodeWord_reserved (congrArg BitVec.toNat h0) hclear hret
  · rw [exec_reserved0NNN, decodeErrorOf_encodeAddr_zero]
    rfl

end Sys2Proof.Machine
end

section
/-!
PROOF. The statements about control transfer (spec/40_flow.md R80 to R88): where a call and the return
after it leave PC, SP and the stack, where the jumps go, and what the register skips change.
-/

namespace Sys2Proof.Machine

/-! ## Call and return (R80, R82) -/

/-- The slot the call wrote is the only part of the state the pair leaves changed; what PC was at the
return is lost, since the return overwrites it. -/
theorem exec_ret_of_pushed (s : State) (w : Word) (hsp : s.sp.toNat < 16) :
    exec .ret { s with stack := s.stack.set s.sp.toNat s.pc hsp, sp := s.sp + 1, pc := w } =
      .next { s with stack := s.stack.set s.sp.toNat s.pc hsp } := by
  have htop : (s.sp + 1).toNat - 1 = s.sp.toNat := by bv_omega
  rw [(returnPopsPc _).1 (by bv_omega) (htop.trans_lt hsp)]
  simp only [htop, Vector.getElem_set_self, BitVec.add_sub_cancel]

/-- Settles O16: the return pops the address the call pushed, and a push leaves the other entries. -/
theorem returnUndoesCall : Obligations.ReturnUndoesCall := by
  intro addr s hsp
  refine ⟨_, (callPushesPcAndJumps addr s).1 hsp, fun pc' => ⟨_, exec_ret_of_pushed s pc' hsp, ?_⟩⟩
  exact ⟨rfl, rfl, rfl, fun k hk => Vector.getElem_set_ne hsp k.isLt (Ne.symm hk)⟩

/-! ## Jumps (R81, R83) -/

/-- Settles O13: the target is the address, zero-extended. -/
theorem jumpSetsPc : Obligations.JumpSetsPc := by
  intro addr s
  rw [← zextAddr_eq_setWidth]
  rfl

/-- The farthest target is 4095 + 255, so the 16-bit sum does not wrap. -/
theorem offsetTarget_toNat (addr : Addr) (b : Byte) :
    (offsetTarget addr b).toNat = addr.toNat + b.toNat := by
  have := addr.isLt
  have := b.isLt
  simp only [offsetTarget, BitVec.toNat_ofNat]
  omega

/-- Settles O17: only PC is written, with a sum that does not wrap. -/
theorem jumpOffsetAddsV0 : Obligations.JumpOffsetAddsV0 := by
  intro addr s
  exact ⟨_, rfl, offsetTarget_toNat addr s.v[0], rfl, State.sameMemory_of_eq rfl rfl⟩

/-! ## Register skips (R84 to R88) -/

/-- A skip on a test that decides `p` writes PC, and PC alone, as `p` says. -/
theorem State.skipIf_of_iff (s : State) {c : Bool} {p : Prop} [Decidable p] (h : c = true ↔ p) :
    s.skipIf c = .next { s with pc := if p then s.pc + 2 else s.pc } := by
  by_cases hp : p
  · rw [if_pos hp]
    exact s.skipIf_true (h.2 hp)
  · rw [if_neg hp]
    exact s.skipIf_false (Bool.eq_false_iff.2 fun hc => hp (h.1 hc))

/-- Settles O18: each skip tests its condition by the Boolean equality of bytes or by its negation. -/
theorem registerSkipsMovePc : Obligations.RegisterSkipsMovePc := fun _ _ _ s =>
  ⟨s.skipIf_of_iff beq_iff_eq, s.skipIf_of_iff bne_iff_ne, s.skipIf_of_iff beq_iff_eq,
    s.skipIf_of_iff bne_iff_ne⟩

end Sys2Proof.Machine
end

section
/-!
PROOF. The statements about registers and arithmetic (spec/41_alu.md R90 to R103): the values of the
operations as arithmetic, the two shapes an instruction writes its result in, and the exactness of the
result and the flag together, which follows from what the flag writers are shown to write.
-/

namespace Sys2Proof.Machine

/-! ## The values written (R91, R96 to R100) -/

theorem sum8_toNat (a b : Byte) : (sum8 a b).toNat = (a.toNat + b.toNat) % 256 :=
  BitVec.toNat_ofNat _ 8

theorem diff8_toNat (a b : Byte) : (diff8 a b).toNat = (a.toNat + 256 - b.toNat) % 256 :=
  BitVec.toNat_ofNat _ 8

theorem half8_toNat (a : Byte) : (half8 a).toNat = a.toNat / 2 :=
  Nat.mod_eq_of_lt ((Nat.div_le_self _ 2).trans_lt a.isLt)

theorem double8_toNat (a : Byte) : (double8 a).toNat = 2 * a.toNat % 256 :=
  BitVec.toNat_ofNat _ 8

theorem shiftedOutRight_eq_getLsbD (a : Byte) : shiftedOutRight a = a.getLsbD 0 := by
  rw [shiftedOutRight, BitVec.getLsbD, Nat.testBit_zero]

theorem shiftedOutLeft_eq_getLsbD (a : Byte) : shiftedOutLeft a = a.getLsbD 7 := by
  rw [shiftedOutLeft, BitVec.getLsbD, Nat.testBit_eq_decide_div_mod_eq, decide_eq_decide]
  omega

/-! ## A register and nothing else (R90 to R95, R103) -/

/-- A write whose bits are `g` leaves VF alone unless VF is the destination. -/
theorem State.setV_answersBits (s : State) (x : Reg) {r : Byte} {g : Nat → Bool}
    (hg : ∀ b, r.getLsbD b = g b) :
    AnswersNext (.next (s.setV x r)) fun t =>
      (∀ b, b < 8 → t.v[x].getLsbD b = g b) ∧ (∀ k : Reg, k ≠ x → t.v[k] = s.v[k]) ∧ s.OnlyV t := by
  obtain ⟨hx, hframe⟩ := s.onlyVx_setV x r
  exact ⟨_, rfl, fun b _ => by rw [hx, hg], hframe⟩

/-- Settles O20: one register write. -/
theorem setImmWritesImmediate : Obligations.SetImmWritesImmediate := fun x nn s =>
  ⟨_, rfl, s.onlyVx_setV x nn⟩

/-- Settles O22: one register write, of the value of V[y] on entry. -/
theorem copyWritesVy : Obligations.CopyWritesVy := fun x y s =>
  ⟨_, rfl, s.onlyVx_setV x s.v[y]⟩

/-- Settles O21: one register write, of the wrapping sum. -/
theorem addImmWrapsWithoutFlag : Obligations.AddImmWrapsWithoutFlag := by
  intro x nn s
  obtain ⟨hx, hframe⟩ := s.onlyVx_setV x (sum8 s.v[x] nn)
  exact ⟨_, rfl, (congrArg BitVec.toNat hx).trans (sum8_toNat _ _), hframe⟩

/-- Settles O23: one register write each, and a bit of the result is the operation on the bits. -/
theorem logicIsBitwiseWithoutFlag : Obligations.LogicIsBitwiseWithoutFlag := fun x _ s =>
  ⟨s.setV_answersBits x fun _ => BitVec.getLsbD_or, s.setV_answersBits x fun _ => BitVec.getLsbD_and,
    s.setV_answersBits x fun _ => BitVec.getLsbD_xor⟩

/-- Settles O30: one register write after the draw, whatever the byte drawn is; the mask clears the
bits outside `nn`. -/
theorem randAndMasksOneDrawnByte : Obligations.RandAndMasksOneDrawnByte := by
  intro x nn s
  obtain ⟨hx, hother, -, hmem⟩ := s.rand.2.onlyVx_setV x (s.rand.1 &&& nn)
  refine ⟨_, rfl, hx, ?_, rfl, hother, rfl, hmem⟩
  rw [hx, BitVec.and_assoc, BitVec.and_not_self]
  exact BitVec.and_zero

/-! ## A result and, last, the flag (R96 to R100) -/

/-- Settles O24: the sum modulo 256, then the carry. -/
theorem addRegWritesSumAndCarry : Obligations.AddRegWritesSumAndCarry := fun x _ s =>
  ⟨_, rfl, s.resultAndFlag_setResultAndFlag x _ (sum8_toNat _ _)⟩

/-- Settles O25: the difference modulo 256, then no borrow. -/
theorem subRegWritesDifferenceAndNoBorrow : Obligations.SubRegWritesDifferenceAndNoBorrow :=
  fun x _ s => ⟨_, rfl, s.resultAndFlag_setResultAndFlag x _ (diff8_toNat _ _)⟩

/-- Settles O27: the same with the operands reversed. -/
theorem subRegRevWritesDifferenceAndNoBorrow : Obligations.SubRegRevWritesDifferenceAndNoBorrow :=
  fun x _ s => ⟨_, rfl, s.resultAndFlag_setResultAndFlag x _ (diff8_toNat _ _)⟩

/-- Settles O26: the half, then the bit shifted out. -/
theorem shiftRightWritesHalfAndBitZero : Obligations.ShiftRightWritesHalfAndBitZero := by
  intro x s
  rw [← shiftedOutRight_eq_getLsbD]
  exact ⟨_, rfl, s.resultAndFlag_setResultAndFlag x _ (half8_toNat _)⟩

/-- Settles O28: the double modulo 256, then the bit shifted out. -/
theorem shiftLeftWritesDoubleAndBitSeven : Obligations.ShiftLeftWritesDoubleAndBitSeven := by
  intro x s
  rw [← shiftedOutLeft_eq_getLsbD]
  exact ⟨_, rfl, s.resultAndFlag_setResultAndFlag x _ (double8_toNat _)⟩

/-! ## The result and the flag together are exact (R101, R102) -/

theorem sum_mod_add_carry (a b : Byte) :
    (a.toNat + b.toNat) % 256 + 256 * (decide (a.toNat + b.toNat ≥ 256)).toNat =
      a.toNat + b.toNat := by
  by_cases h : a.toNat + b.toNat ≥ 256
  · rw [decide_eq_true h, Bool.toNat_true]
    omega
  · rw [decide_eq_false h, Bool.toNat_false]
    omega

theorem diff_mod_add_subtrahend (a b : Byte) :
    (a.toNat + 256 - b.toNat) % 256 + b.toNat =
      a.toNat + 256 * (1 - (decide (a.toNat ≥ b.toNat)).toNat) := by
  by_cases h : a.toNat ≥ b.toNat
  · rw [decide_eq_true h, Bool.toNat_true]
    omega
  · rw [decide_eq_false h, Bool.toNat_false]
    omega

theorem half_add_bitZero (a : Byte) : 2 * (a.toNat / 2) + (a.getLsbD 0).toNat = a.toNat := by
  rw [BitVec.getLsbD, Nat.toNat_testBit]
  omega

theorem double_mod_add_bitSeven (a : Byte) :
    2 * a.toNat % 256 + 256 * (a.getLsbD 7).toNat = 2 * a.toNat := by
  rw [BitVec.getLsbD, Nat.toNat_testBit]
  omega

/-- With `x ≠ 15` the flag does not overwrite the result, so what holds of the two values holds of the
two registers. -/
theorem AnswersNext.of_resultAndFlag {s : State} {r : Result} {x : Reg} {n : Nat} {f : Bool}
    {P : State → Prop} (h : AnswersNext r (s.ResultAndFlag x n f))
    (hP : ∀ t : State, t.v[x].toNat = n → t.v[vF].toNat = f.toNat → P t) :
    AnswersNext r fun t => x ≠ vF → P t := by
  obtain ⟨t, e, hresult, hflag, -⟩ := h
  exact ⟨t, e, fun hx => hP t (hresult hx) hflag⟩

/-- Settles O29: what each flag writer writes, and the arithmetic that makes the two values exact. -/
theorem resultAndFlagAreExact : Obligations.ResultAndFlagAreExact := by
  intro x y s
  refine ⟨(addRegWritesSumAndCarry x y s).of_resultAndFlag fun t hr hf => ?_,
    (subRegWritesDifferenceAndNoBorrow x y s).of_resultAndFlag fun t hr hf => ?_,
    (subRegRevWritesDifferenceAndNoBorrow x y s).of_resultAndFlag fun t hr hf => ?_,
    (shiftRightWritesHalfAndBitZero x s).of_resultAndFlag fun t hr hf => ?_,
    (shiftLeftWritesDoubleAndBitSeven x s).of_resultAndFlag fun t hr hf => ?_⟩
  · rw [hr, hf, sum_mod_add_carry]
  · rw [hr, hf, diff_mod_add_subtrahend]
  · rw [hr, hf, diff_mod_add_subtrahend]
  · rw [hr, hf, half_add_bitZero]
  · rw [hr, hf, double_mod_add_bitSeven]

end Sys2Proof.Machine
end

section
/-!
PROOF. The statements about the index register and the memory instructions (spec/42_index_memory.md
R105 to R111): the values written to I, what a store at I and a load from I can do, with the base
address I itself and all bytes or none, and the round trip of the registers through memory.
-/

namespace Sys2Proof.Machine

/-! ## The index register (R105 to R107) -/

theorem zextAddr_toNat (addr : Addr) : (zextAddr addr).toNat = addr.toNat := by
  rw [zextAddr_eq_setWidth, BitVec.toNat_setWidth_of_le (by decide)]

theorem indexSum_toNat (i : Word) (b : Byte) : (indexSum i b).toNat = (i.toNat + b.toNat) % 65536 :=
  BitVec.toNat_ofNat _ 16

/-- The farthest glyph address is 5 * 255, so the product does not wrap. -/
theorem glyphAddress_toNat (b : Byte) : (glyphAddress b).toNat = 5 * b.toNat := by
  have := b.isLt
  simp only [glyphAddress, BitVec.toNat_ofNat]
  omega

/-- A write of I leaves everything else alone. -/
theorem State.setI_answersOnlyI (s : State) {w : Word} {n : Nat} (hw : w.toNat = n) :
    AnswersNext (.next (s.setI w)) fun t =>
      t.ireg.toNat = n ∧ t = { s with ireg := t.ireg } ∧ s.SameMemory t :=
  ⟨_, rfl, hw, rfl, State.sameMemory_of_eq rfl rfl⟩

/-- Settles O31: one write of I each. -/
theorem indexInstructionsWriteI : Obligations.IndexInstructionsWriteI := fun addr x s =>
  ⟨s.setI_answersOnlyI (zextAddr_toNat addr), s.setI_answersOnlyI (indexSum_toNat s.ireg s.v[x]),
    s.setI_answersOnlyI (glyphAddress_toNat s.v[x])⟩

/-! ## Stores at I (R108, R109) -/

theorem State.storeAtIndex_answersOnlyBytes {s : State} {bs : List Byte}
    (hwf : Memory.wf s.params.font s.mem = true) (hb : s.base + bs.length ≤ memSize) :
    AnswersNext (s.storeAtIndex bs) (s.OnlyBytes s.ireg.toNat bs) :=
  ⟨_, State.storeAtIndex_of_le hb, State.onlyBytes_writeBytes hb hwf⟩

theorem State.storeAtIndex_of_gt {s : State} {bs : List Byte} (hbs : bs ≠ [])
    (hb : memSize < s.base + bs.length) :
    s.storeAtIndex bs = .next (s.recordError (.boundsError .memWrite s.base)) := by
  rcases s.storeAtIndex_cases bs hbs with ⟨hle, -⟩ | ⟨-, e⟩
  · exact absurd hle (Nat.not_le_of_lt hb)
  · exact e

theorem bcdDigits_length (b : Byte) : (bcdDigits b).length = 3 := rfl

/-- The digits are below 256, so narrowing them loses nothing. -/
theorem bcdDigits_getD_toNat (b : Byte) :
    ((bcdDigits b).getD 0 0).toNat = b.toNat / 100 ∧
      ((bcdDigits b).getD 1 0).toNat = b.toNat / 10 % 10 ∧
      ((bcdDigits b).getD 2 0).toNat = b.toNat % 10 := by
  have hlt : ∀ n, n ≤ b.toNat → (BitVec.ofNat 8 n).toNat = n := fun _ hn =>
    Nat.mod_eq_of_lt (hn.trans_lt b.isLt)
  exact ⟨hlt _ (Nat.div_le_self _ _), hlt _ ((Nat.mod_le _ _).trans (Nat.div_le_self _ _)),
    hlt _ (Nat.mod_le _ _)⟩

/-- Settles O32: a store of the three digits. -/
theorem bcdStoresDecimalDigits : Obligations.BcdStoresDecimalDigits := by
  intro x s hwf
  refine ⟨fun hb => ?_, fun hb =>
    State.storeAtIndex_of_gt (List.cons_ne_nil _ _) (Nat.lt_succ_of_le hb)⟩
  obtain ⟨hhundreds, htens, hones⟩ := bcdDigits_getD_toNat s.v[x]
  obtain ⟨t, e, hstored, hframe⟩ :=
    State.storeAtIndex_answersOnlyBytes (bs := bcdDigits s.v[x]) hwf hb
  rw [bcdDigits_length] at hstored hframe
  rw [← hstored 0 (by decide)] at hhundreds
  rw [← hstored 1 (by decide)] at htens
  rw [← hstored 2 (by decide)] at hones
  refine ⟨t, e, hhundreds, htens, hones, ?_, hframe⟩
  rw [Nat.add_zero] at hhundreds
  omega

theorem State.regPrefix_getD (s : State) {x k : Reg} (h : k ≤ x) :
    (s.regPrefix x).getD k.val 0 = s.v[k] := by
  have hk : k.val < (s.regPrefix x).length := by
    rw [State.regPrefix_length]
    exact Nat.lt_succ_of_le h
  rw [List.getD_eq_getElem _ _ hk, State.regPrefix_getElem s x k h]

/-- Settles O33: a store of the registers V0 to Vx. -/
theorem storeRegsWritesPrefix : Obligations.StoreRegsWritesPrefix := by
  intro x s hwf
  have hlen := s.regPrefix_length x
  refine ⟨fun hb => ?_, fun hb => State.storeAtIndex_of_gt (s.regPrefix_ne_nil x) ?_⟩
  · obtain ⟨t, e, hstored, houtside, ht⟩ :=
      State.storeAtIndex_answersOnlyBytes (bs := s.regPrefix x) hwf (by rw [hlen]; exact hb)
    rw [hlen] at hstored houtside
    exact ⟨t, e, fun k hk => (hstored k.val (Nat.lt_succ_of_le hk)).trans (s.regPrefix_getD hk),
      houtside, ht⟩
  · rw [hlen]
    exact Nat.lt_succ_of_le hb

/-! ## Loads from I (R110) -/

/-- Loading at I: all the registers V0 to Vx, or the error and nothing. -/
theorem execLoadRegs_cases (x : Reg) (s : State) :
    (s.ireg.toNat + x.val < 4096 ∧
        execLoadRegs x s = .next (s.loadPrefix x (s.readBytes s.base (x.val + 1)))) ∨
      (4096 ≤ s.ireg.toNat + x.val ∧
        execLoadRegs x s = .next (s.recordError (.boundsError .memRead s.base))) := by
  unfold execLoadRegs
  rcases s.memRead_cases .memRead s.base (x.val + 1) with ⟨h, e⟩ | ⟨-, h, e⟩
  · rw [e]
    exact .inl ⟨h.resolve_left (Nat.succ_ne_zero _), rfl⟩
  · rw [e]
    exact .inr ⟨Nat.le_of_lt_succ h, rfl⟩

/-- Settles O34: the two cases of a load. -/
theorem loadRegsReadsPrefix : Obligations.LoadRegsReadsPrefix := by
  intro x s
  rcases execLoadRegs_cases x s with ⟨hb, e⟩ | ⟨hb, e⟩
  · refine ⟨fun _ => ⟨_, e, fun k hk => ?_, fun k hk => ?_, s.onlyV_loadPrefix x _⟩,
      fun hb' => absurd hb (Nat.not_lt_of_le hb')⟩
    · rw [State.loadPrefix_getElem, if_pos hk]
      exact s.readBytes_getD (Nat.lt_succ_of_le hk)
    · rw [State.loadPrefix_getElem, if_neg (Fin.not_le.2 hk)]
  · exact ⟨fun hb' => absurd hb' (Nat.not_lt_of_le hb), fun _ => e⟩

/-! ## The round trip (R110) -/

/-- Settles O35: the store leaves I alone, so the load reads V0 to Vx where the store put them, and both
leave the registers above Vx alone. -/
theorem storeThenLoadRestoresRegisters : Obligations.StoreThenLoadRestoresRegisters := by
  intro x s hwf hb
  obtain ⟨t, e, hstored, -, ht⟩ := (storeRegsWritesPrefix x s hwf).1 hb
  obtain ⟨m, rfl⟩ : ∃ m, t = { s with mem := m } := ⟨_, ht⟩
  refine ⟨_, e, fun v' hv' => ?_⟩
  obtain ⟨u, eu, hloaded, habove, hu, -⟩ :=
    (loadRegsReadsPrefix x { s with mem := m, v := v' }).1 hb
  have hv : u.v = s.v := by
    refine Vector.ext fun i hi => ?_
    let k : Reg := ⟨i, hi⟩
    rcases le_or_gt k x with hle | hgt
    · exact (hloaded k hle).trans (hstored k hle)
    · exact (habove k hgt).trans (hv' k hgt)
  rw [hv] at hu
  subst hu
  exact ⟨_, eu, rfl, rfl, rfl⟩

end Sys2Proof.Machine
end

section
/-!
PROOF. The statements about the display (spec/43_display.md R113 to R116): the cells under the 1 bits
of a sprite, the two cases of a draw, and that toggling the same cells twice restores them.
-/

namespace Sys2Proof.Machine

/-- Settles O37: the blank framebuffer, and no other field written. -/
theorem clearScreenBlanksEveryCell : Obligations.ClearScreenBlanksEveryCell := fun _ =>
  ⟨_, rfl, fun i => Framebuffer.cell_blank (cellColumn i) (cellRow i), rfl,
    State.sameMemory_of_eq rfl rfl⟩

/-! ## The cells under a sprite (R114, R115 (d)) -/

/-- The cells under the 1 bits of the sprite that draw(x, y, n) reads at I (R114). -/
def State.spriteCells (s : State) (x y : Reg) (n : Fin 16) : List Pixel :=
  s.drawPixels x y (s.readBytes s.base n.val)

section Sprite

variable (s : State) (x y : Reg) (n : Fin 16)

theorem State.mem_spriteCells_iff {px : Fin 64} {py : Fin 32} :
    (px, py) ∈ s.spriteCells x y n ↔ s.SpriteBit x y n px py := by
  unfold State.spriteCells State.drawPixels State.SpriteBit
  rw [mem_spritePixels, State.readBytes_length]
  refine exists_congr fun r => exists_congr fun c => and_congr_right fun hr => ?_
  rw [State.readBytes_getD s hr, Prod.mk.injEq, Fin.ext_iff, Fin.ext_iff]
  rfl

/-- A sprite has at most 15 rows, so no two of its pixels share a cell. -/
theorem State.spriteCells_nodup : (s.spriteCells x y n).Nodup := by
  refine spritePixels_nodup _ _ ?_
  rw [State.readBytes_length]
  omega

theorem State.blit_spriteCells_cell (px : Fin 64) (py : Fin 32) [Decidable (s.SpriteBit x y n px py)] :
    (blit s.fb (s.spriteCells x y n)).1.cell px py =
      (s.fb.cell px py ^^ decide (s.SpriteBit x y n px py)) := by
  rw [← decide_eq_decide.2 (s.mem_spriteCells_iff x y n)]
  exact blit_cell_of_nodup (s.spriteCells_nodup x y n) s.fb (px, py)

theorem State.blit_spriteCells_collision : (blit s.fb (s.spriteCells x y n)).2 = true ↔
    ∃ px py, s.SpriteBit x y n px py ∧ s.fb.cell px py = true := by
  rw [blit_collision_of_nodup (s.spriteCells_nodup x y n), List.any_eq_true, Prod.exists]
  simp only [s.mem_spriteCells_iff]

/-! ## The two cases of a draw (R114, R138) -/

variable {s x y n}

theorem execDraw_of_inBounds (h : n.val = 0 ∨ s.ireg.toNat + n.val ≤ 4096) :
    execDraw x y n s = .next ((s.setFb (blit s.fb (s.spriteCells x y n)).1).setFlag
      (blit s.fb (s.spriteCells x y n)).2) := by
  have hread : s.memRead .memRead s.base n.val = .ok (s.readBytes s.base n.val) :=
    if_pos (inBounds_iff.2 h)
  unfold execDraw
  rw [hread]
  rfl

theorem execDraw_of_gt (hn : 1 ≤ n.val) (h : 4096 < s.ireg.toNat + n.val) :
    execDraw x y n s = .next (s.recordError (.boundsError .memRead s.base)) := by
  have hout : ¬ (n.val = 0 ∨ s.base + n.val ≤ memSize) :=
    not_or.2 ⟨Nat.ne_of_gt hn, Nat.not_le_of_lt h⟩
  have hread : s.memRead .memRead s.base n.val = .error (.boundsError .memRead s.base) :=
    if_neg fun hb => hout (inBounds_iff.1 hb)
  unfold execDraw
  rw [hread]
  rfl

end Sprite

/-- Settles O38: the cells and the collision of a draw in range, and the error of a draw out of range. -/
theorem drawTogglesSpriteCells : Obligations.DrawTogglesSpriteCells := by
  classical
  intro x y n s
  refine ⟨fun hb => ⟨_, execDraw_of_inBounds hb, fun px py hbit => ?_, fun px py hbit => ?_,
    fun hhit => ?_, fun hmiss => ?_, fun k hk => ?_, rfl, State.sameMemory_of_eq rfl rfl⟩,
    execDraw_of_gt⟩
  · exact (s.blit_spriteCells_cell x y n px py).trans (by rw [decide_eq_true hbit, Bool.xor_true])
  · exact (s.blit_spriteCells_cell x y n px py).trans (by rw [decide_eq_false hbit, Bool.xor_false])
  · rw [State.setFlag_vF, (s.blit_spriteCells_collision x y n).2 hhit]
    rfl
  · rw [State.setFlag_vF, Bool.eq_false_iff.2 (mt (s.blit_spriteCells_collision x y n).1 hmiss)]
    rfl
  · exact getElem_set_of_ne _ (beq_false_of_ne hk)

/-! ## The same sprite twice (R115 (e)) -/

theorem blit_blit_of_nodup {ps : List Pixel} (h : ps.Nodup) (f : Framebuffer) :
    (blit (blit f ps).1 ps).1 = f := by
  refine Framebuffer.ext_cell fun px py => ?_
  have hcell := fun g => blit_cell_of_nodup h g (px, py)
  exact (hcell _).trans (by rw [hcell f, Bool.xor_assoc, Bool.xor_self, Bool.xor_false])

/-- Settles O39: a draw leaves memory and I alone, so with the registers put back the second draw toggles
the same cells. -/
theorem drawTwiceRestoresFramebuffer : Obligations.DrawTwiceRestoresFramebuffer := fun x y n s hb =>
  ⟨_, execDraw_of_inBounds hb, _, execDraw_of_inBounds hb,
    blit_blit_of_nodup (s.spriteCells_nodup x y n) s.fb⟩

end Sys2Proof.Machine
end

section
/-!
PROOF. The statements about the keyboard and the timers (spec/44_keyboard_timers.md R118 to R124): the
key skips by the value of V[x], the two cases of an await-key, the wait it enters and the step that ends
that wait, and the timer transfers.
-/

namespace Sys2Proof.Machine

variable {s : State} {x k0 : Reg}

/-! ## The key skips (R118, R119) -/

theorem State.keyOperand_of_lt (h : s.v[x].toNat < 16) : s.keyOperand x = .ok ⟨s.v[x].toNat, h⟩ :=
  dif_pos h

theorem State.keyOperand_of_ge (h : 16 ≤ s.v[x].toNat) :
    s.keyOperand x = .error (.boundsError .keyIndex s.v[x].toNat) :=
  dif_neg (Nat.not_lt_of_le h)

/-- Settles O41: the operand is a key, whose flag or its negation is the condition of the skip, or it is
an error. -/
theorem keySkipsTestTheLatch : Obligations.KeySkipsTestTheLatch := by
  intro x s
  simp only [exec, execSkipKeyPressed, execSkipKeyNotPressed]
  refine ⟨fun h => ?_, fun h => ?_⟩
  · rw [State.keyOperand_of_lt h]
    exact ⟨s.skipIf_of_iff Iff.rfl, s.skipIf_of_iff (iff_of_eq (Bool.not_eq_true' _))⟩
  · rw [State.keyOperand_of_ge h]
    exact ⟨s.takeError_eq _, s.takeError_eq _⟩

/-! ## The two cases of an await-key (R120, R121) -/

theorem execAwaitKey_of_leastPressed (h : s.LeastPressed k0) :
    execAwaitKey x s = .next (s.deliverKey x k0) := by
  simp only [execAwaitKey, State.lowestPressed_iff_leastPressed.2 h]

theorem execAwaitKey_of_noKey (h : ∀ k : Reg, s.key[k] = false) :
    execAwaitKey x s = .next (s.rewindPc.setMode (.awaitingKey x)) := by
  simp only [execAwaitKey, State.lowestPressed_none.2 h]

/-- Settles O42: with a least key the instruction is the delivery of it, which writes V and KEY only; with
none it is the entry into the wait. -/
theorem awaitKeyTakesLowestKeyOrWaits : Obligations.AwaitKeyTakesLowestKeyOrWaits := by
  intro x s
  refine ⟨fun k0 hk0 => ⟨_, execAwaitKey_of_leastPressed hk0, ?_⟩, execAwaitKey_of_noKey⟩
  have hkey : ∀ k : Reg, (s.deliverKey x k0).key[k] = s.keyAfterEffect k0 k := s.deliverKey_key x k0
  rw [State.deliverKey_eq] at hkey ⊢
  exact ⟨rfl, hkey, rfl, State.sameMemory_of_eq rfl rfl⟩

/-! ## The wait (R24, R120) -/

theorem State.advancePc_rewindPc (s : State) : s.advancePc.rewindPc = s := by
  simp only [State.advancePc, State.rewindPc, State.setPc, BitVec.add_sub_cancel]

/-- The step on an await-key with no key latched changes the mode alone: the fetch moves PC to A + 2 and
the instruction puts it back to A. -/
theorem step_awaitKey_of_noKey (hm : s.mode = .running) (hpc : s.pc.toNat ≤ 4094)
    (hd : decodeWord (beWord (s.readByte s.pc.toNat) (s.readByte (s.pc.toNat + 1))) = .ok (.awaitKey x))
    (hkeys : ∀ k : Reg, s.key[k] = false) : step s = .next (s.setMode (.awaitingKey x)) := by
  calc step s
      = execAwaitKey x s.advancePc := step_of_decode hm (State.fetchWord_of_pc_le hpc) hd
    _ = .next (s.advancePc.rewindPc.setMode (.awaitingKey x)) := execAwaitKey_of_noKey hkeys
    _ = .next (s.setMode (.awaitingKey x)) := by rw [State.advancePc_rewindPc]

/-- A key number fits in a byte. -/
theorem keyByte_toNat (k : Reg) : (BitVec.ofNat 8 k.val).toNat = k.val :=
  Nat.mod_eq_of_lt (k.isLt.trans (by decide))

/-- Settles O43: the wait keeps PC and records x in the mode, so the step that finds a key, which does
not fetch, delivers that key to V[x] and moves PC on from A, whatever memory then holds. -/
theorem awaitKeyWaitsAtItsAddress : Obligations.AwaitKeyWaitsAtItsAddress := by
  intro x s hm hpc hd hkeys
  refine ⟨_, step_awaitKey_of_noKey hm hpc hd hkeys, rfl, fun m key k0 hk0 => ?_⟩
  obtain ⟨-, hdeliver⟩ :=
    waitingStepDeliversLowestKey { s.setMode (.awaitingKey x) with mem := m, key := key } x rfl
  obtain ⟨u, e, hv, -, hu, -⟩ := hdeliver k0 hk0
  refine ⟨u, e, congrArg State.pc hu, congrArg State.mode hu, ?_⟩
  rw [hv]
  exact (congrArg BitVec.toNat (Vector.getElem_set_self x.isLt)).trans (keyByte_toNat k0)

/-! ## The timers (R122 to R124) -/

/-- Settles O44: a write of one register, and a write of each timer. -/
theorem timerInstructionsMoveAByte : Obligations.TimerInstructionsMoveAByte := fun x s =>
  ⟨⟨_, rfl, s.onlyVx_setV x s.dt⟩, rfl, rfl⟩

end Sys2Proof.Machine
end

section
/-!
PROOF. The statements about errors and the host's operations (spec/60_exceptions.md R130 to R147): the
failed fetch, what a step that returns an error leaves, that the record of errors is not read, the tick,
and the host's writes of the latch.
-/

namespace Sys2Proof.Machine

variable {s t : State}

/-! ## The failed fetch (R131, R136) -/

theorem State.fetchWord_of_pc_ge (hpc : 4095 ≤ s.pc.toNat) :
    s.fetchWord = .error (.boundsError .fetch s.pc.toNat) := by
  rcases s.fetchWord_cases with ⟨hle, -⟩ | ⟨-, e⟩
  · omega
  · exact e

theorem step_of_pc_ge (hm : s.mode = .running) (hpc : 4095 ≤ s.pc.toNat) :
    step s = .next (s.recordError (.boundsError .fetch s.pc.toNat)) :=
  step_of_fetch_error hm (State.fetchWord_of_pc_ge hpc)

/-- Settles O2: the record of the error keeps mode and PC, so the next fetch fails in the same way. -/
theorem fetchOutOfRangeChangesNothing : Obligations.FetchOutOfRangeChangesNothing := by
  rintro s e hm hpc rfl
  exact ⟨step_of_pc_ge hm hpc, step_of_pc_ge hm hpc⟩

/-! ## The host's operations (R145 to R147) -/

theorem tickDown_toNat (b : Byte) : (tickDown b).toNat = b.toNat - 1 := by
  unfold tickDown
  split
  case isTrue h => rw [h]; rfl
  case isFalse h => bv_omega

/-- Settles O46: a tick is `tickDown` of each timer. -/
theorem tickCountsDownToZero : Obligations.TickCountsDownToZero := fun s =>
  ⟨_, rfl, tickDown_toNat s.dt, tickDown_toNat s.st, rfl⟩

theorem State.hostSetKey_of_lt (s : State) (pressed : Bool) {code : Nat} (h : code < 16) :
    s.hostSetKey code pressed = s.setKey ⟨code, h⟩ pressed :=
  dif_pos h

theorem State.hostSetKey_of_ge (s : State) (pressed : Bool) {code : Nat} (h : 16 ≤ code) :
    s.hostSetKey code pressed = s.recordError (.boundsError .keyIndex code) :=
  dif_neg (Nat.not_lt_of_le h)

theorem State.clearKeys_getElem (s : State) (k : Reg) : s.clearKeys.key[k] = false :=
  Vector.getElem_replicate k.isLt

/-- Settles O47: the code names a flag, or the write is an error. -/
theorem hostWritesTheLatch : Obligations.HostWritesTheLatch :=
  ⟨fun _ pressed s => ⟨fun h => congrArg Host.Outcome.next (s.hostSetKey_of_lt pressed h),
      fun h => congrArg Host.Outcome.next (s.hostSetKey_of_ge pressed h)⟩,
    fun s => ⟨_, rfl, s.clearKeys_getElem, rfl⟩⟩

/-! ## Runs from another record of errors (R142) -/

/-- The state with another record of errors. -/
def State.setErrors (s : State) (es : List MachineError) : State := { s with errors := es }

@[simp] theorem State.setErrors_sp (s : State) (es : List MachineError) :
    (s.setErrors es).sp = s.sp := rfl

@[simp] theorem State.setErrors_pc (s : State) (es : List MachineError) :
    (s.setErrors es).pc = s.pc := rfl

@[simp] theorem State.setErrors_params (s : State) (es : List MachineError) :
    (s.setErrors es).params = s.params := rfl

/-- An outcome with another record of errors in its next state. -/
def withErrors (es : List MachineError) : Result → Result
  | .next t => .next (t.setErrors es)
  | .fault r => .fault r
  | .refused r => .refused r

/-- From `s`, whatever the record of errors is, `f` carries it through and has the same outcome. -/
def Silent (f : State → Result) (s : State) : Prop :=
  ∀ es, f (s.setErrors es) = withErrors es (f s)

/-- From `s`, whatever the record of errors is, `f` returns the error `e` and leaves `t`. -/
def Returns (f : State → Result) (s : State) (e : MachineError) (t : State) : Prop :=
  ∀ es, f (s.setErrors es) = .next (t.setErrors (e :: es))

/-- From `s`, `f` returns no error, or it returns one of no fetch and leaves `s` (R137, R138). -/
def SilentOrReturns (f : State → Result) (s : State) : Prop :=
  Silent f s ∨ ∃ e, (∀ a, e ≠ .boundsError .fetch a) ∧ Returns f s e s

theorem Silent.errors_eq {f : State → Result} (h : Silent f s) (e : f s = .next t) :
    t.errors = s.errors := by
  have hself : f s = withErrors s.errors (f s) := h s.errors
  rw [e] at hself
  injection hself with ht
  rw [ht]
  rfl

theorem Silent.eq_next {f : State → Result} (h : Silent f s) (e : f s = .next t)
    (es : List MachineError) : f (s.setErrors es) = .next (t.setErrors es) := by
  rw [h es, e]
  rfl

theorem Returns.eq_setErrors {f : State → Result} {e : MachineError} {u : State}
    (h : Returns f s e u) (ht : f s = .next t) : t = u.setErrors (e :: s.errors) := by
  have hself : f s = .next (u.setErrors (e :: s.errors)) := h s.errors
  rw [ht] at hself
  injection hself

theorem decodeErrorOf_ne_fetch (w : Word) (a : Nat) : decodeErrorOf w ≠ .boundsError .fetch a :=
  nofun

section Operations

variable (s) (es : List MachineError)

theorem State.memRead_setErrors (cause : BoundsCause) (a n : Nat) :
    (s.setErrors es).memRead cause a n = s.memRead cause a n := rfl

theorem State.base_setErrors : (s.setErrors es).base = s.base := rfl

theorem State.writeBytes_setErrors (a : Nat) (bs : List Byte) :
    (s.setErrors es).writeBytes a bs = (s.writeBytes a bs).setErrors es := by
  induction bs generalizing s a with
  | nil => rfl
  | cons b bs ih => exact ih (s.writeByte a b) (a + 1)

theorem State.memWrite_setErrors (a : Nat) (bs : List Byte) :
    (s.setErrors es).memWrite a bs = (s.memWrite a bs).map fun t => t.setErrors es := by
  unfold State.memWrite
  rw [State.writeBytes_setErrors]
  split <;> rfl

theorem State.push_setErrors (w : Word) :
    (s.setErrors es).push w = (s.push w).map fun t => t.setErrors es := by
  unfold State.push
  rw [State.setErrors_sp]
  split <;> rfl

theorem State.applyLatchEffect_setErrors (k0 : Reg) :
    (s.setErrors es).applyLatchEffect k0 = (s.applyLatchEffect k0).setErrors es := by
  unfold State.applyLatchEffect
  rw [State.setErrors_params]
  cases s.params.latchEffect <;> rfl

theorem State.deliverKey_setErrors (x k0 : Reg) :
    (s.setErrors es).deliverKey x k0 = (s.deliverKey x k0).setErrors es :=
  (s.setV x (BitVec.ofNat 8 k0.val)).applyLatchEffect_setErrors es k0

theorem State.lowestPressed_setErrors : (s.setErrors es).lowestPressed = s.lowestPressed := rfl

theorem State.keyOperand_setErrors (x : Reg) : (s.setErrors es).keyOperand x = s.keyOperand x := rfl

end Operations

section Instructions

variable (s)

/-- A condition that is not read from the record decides a skip in the same way. -/
theorem State.skipIf_setErrors (c : Bool) (es : List MachineError) :
    (s.setErrors es).skipIf c = withErrors es (s.skipIf c) := by
  cases c <;> rfl

/-- A store of bytes that are not read from the record. -/
theorem State.storeAtIndex_silentOrReturns {bs : State → List Byte}
    (hbs : ∀ es, bs (s.setErrors es) = bs s) : SilentOrReturns (fun u => u.storeAtIndex (bs u)) s := by
  unfold SilentOrReturns Silent Returns State.storeAtIndex
  simp only [hbs, State.base_setErrors, State.memWrite_setErrors]
  rcases s.memWrite_cases s.base (bs s) with ⟨-, e⟩ | ⟨-, -, e⟩
  · rw [e]
    exact .inl fun _ => rfl
  · rw [e]
    exact .inr ⟨.boundsError .memWrite s.base, nofun, fun _ => rfl⟩

theorem execCall_silentOrReturns (addr : Addr) : SilentOrReturns (execCall addr) s := by
  unfold SilentOrReturns Silent Returns execCall
  simp only [State.setErrors_pc, State.push_setErrors]
  rcases s.push_cases s.pc with ⟨_, e⟩ | ⟨-, e⟩
  · rw [e]
    exact .inl fun _ => rfl
  · rw [e]
    exact .inr ⟨.boundsError .stackOverflow s.sp.toNat, nofun, fun _ => rfl⟩

theorem execRet_silentOrReturns : SilentOrReturns execRet s := by
  by_cases h0 : s.sp = 0
  · exact .inr ⟨.boundsError .stackUnderflow s.sp.toNat, nofun, fun _ => if_pos h0⟩
  · refine .inl fun es => ?_
    unfold execRet State.pop
    rw [State.setErrors_sp, if_neg h0, if_neg h0]
    split <;> rfl

theorem execDraw_silentOrReturns (x y : Reg) (n : Fin 16) : SilentOrReturns (execDraw x y n) s := by
  unfold SilentOrReturns Silent Returns execDraw
  simp only [State.base_setErrors, State.memRead_setErrors]
  rcases s.memRead_cases .memRead s.base n.val with ⟨-, e⟩ | ⟨-, -, e⟩
  · rw [e]
    exact .inl fun _ => rfl
  · rw [e]
    exact .inr ⟨.boundsError .memRead s.base, nofun, fun _ => rfl⟩

theorem execLoadRegs_silentOrReturns (x : Reg) : SilentOrReturns (execLoadRegs x) s := by
  unfold SilentOrReturns Silent Returns execLoadRegs
  simp only [State.base_setErrors, State.memRead_setErrors]
  rcases s.memRead_cases .memRead s.base (x.val + 1) with ⟨-, e⟩ | ⟨-, -, e⟩
  · rw [e]
    exact .inl fun _ => rfl
  · rw [e]
    exact .inr ⟨.boundsError .memRead s.base, nofun, fun _ => rfl⟩

theorem execSkipKey_silentOrReturns (x : Reg) :
    SilentOrReturns (execSkipKeyPressed x) s ∧ SilentOrReturns (execSkipKeyNotPressed x) s := by
  unfold SilentOrReturns Silent Returns execSkipKeyPressed execSkipKeyNotPressed
  simp only [State.keyOperand_setErrors]
  rcases s.keyOperand_cases x with ⟨_, e⟩ | ⟨-, e⟩
  · rw [e]
    exact ⟨.inl fun es => s.skipIf_setErrors _ es, .inl fun es => s.skipIf_setErrors _ es⟩
  · rw [e]
    exact ⟨.inr ⟨.boundsError .keyIndex s.v[x].toNat, nofun, fun _ => rfl⟩,
      .inr ⟨.boundsError .keyIndex s.v[x].toNat, nofun, fun _ => rfl⟩⟩

theorem execAwaitKey_silent (x : Reg) : Silent (execAwaitKey x) s := by
  intro es
  unfold execAwaitKey
  rw [State.lowestPressed_setErrors]
  cases s.lowestPressed with
  | none => rfl
  | some k0 => exact congrArg Host.Outcome.next (s.deliverKey_setErrors es x k0)

theorem stepAwaiting_silent (x : Reg) : Silent (stepAwaiting x) s := by
  intro es
  unfold stepAwaiting
  rw [State.lowestPressed_setErrors]
  cases s.lowestPressed with
  | none => rfl
  | some k0 =>
    simp only [State.deliverKey_setErrors]
    rfl

/-- What an instruction does with the record of errors: it carries it through, or it adds one error and
does nothing else. -/
theorem exec_silentOrReturns (i : Instr) : SilentOrReturns (exec i) s := by
  cases i with
  | clearScreen | jump | setImm | addImm | copy | orReg | andReg | xorReg | addReg | subReg | shiftRight
  | subRegRev | shiftLeft | setIndex | jumpOffset | randAnd | readDelay | setDelay | setSound | addIndex
  | fontAddress => exact .inl fun _ => rfl
  | skipEqImm | skipNeqImm | skipEqReg | skipNeqReg => exact .inl fun es => s.skipIf_setErrors _ es
  | awaitKey x => exact .inl (execAwaitKey_silent s x)
  | skipKeyPressed x => exact (execSkipKey_silentOrReturns s x).1
  | skipKeyNotPressed x => exact (execSkipKey_silentOrReturns s x).2
  | ret => exact execRet_silentOrReturns s
  | call addr => exact execCall_silentOrReturns s addr
  | draw x y n => exact execDraw_silentOrReturns s x y n
  | bcd x => exact s.storeAtIndex_silentOrReturns (bs := fun u => bcdDigits u.v[x]) fun _ => rfl
  | storeRegs x => exact s.storeAtIndex_silentOrReturns (bs := fun u => u.regPrefix x) fun _ => rfl
  | loadRegs x => exact execLoadRegs_silentOrReturns s x
  | reserved0NNN addr =>
    exact .inr ⟨decodeErrorOf (encodeAddr 0 addr), decodeErrorOf_ne_fetch _, fun _ => rfl⟩

end Instructions

/-- What a step does with the record of errors, by the cases of R136 to R138: it carries it through, or
it is a failed fetch, or it returns an error of the decoder or the instruction with PC moved on. -/
theorem step_silent_or_returns (s : State) :
    Silent step s ∨ ∃ e, s.mode = .running ∧
      ((4095 ≤ s.pc.toNat ∧ e = .boundsError .fetch s.pc.toNat ∧ Returns step s e s) ∨
        (s.pc.toNat ≤ 4094 ∧ (∀ a, e ≠ .boundsError .fetch a) ∧ Returns step s e s.advancePc)) := by
  cases hm : s.mode with
  | awaitingKey x =>
    refine .inl fun es => ?_
    rw [step_of_awaiting hm, step_of_awaiting (s := s.setErrors es) hm]
    exact stepAwaiting_silent s x es
  | running =>
    rcases s.fetchWord_cases with ⟨hpc, hf⟩ | ⟨hpc, -⟩
    · cases hd : decodeWord (beWord (s.readByte s.pc.toNat) (s.readByte (s.pc.toNat + 1))) with
      | error f =>
        exact .inr ⟨_, rfl, .inr ⟨hpc, decodeErrorOf_ne_fetch _, fun es =>
          step_of_decode_error (s := s.setErrors es) hm hf hd⟩⟩
      | ok i =>
        have hstep : ∀ es, step (s.setErrors es) = exec i (s.advancePc.setErrors es) :=
          fun es => step_of_decode (s := s.setErrors es) hm hf hd
        rcases exec_silentOrReturns s.advancePc i with h | ⟨e, hne, h⟩
        · refine .inl fun es => ?_
          rw [hstep, step_of_decode hm hf hd]
          exact h es
        · exact .inr ⟨e, rfl, .inr ⟨hpc, hne, fun es => (hstep es).trans (h es)⟩⟩
    · exact .inr ⟨_, rfl, .inl ⟨hpc, rfl, fun es => step_of_pc_ge (s := s.setErrors es) hm hpc⟩⟩

/-- Settles O5: a silent step leaves the record as it was, and the others have the two forms. -/
theorem errorsLeaveEverythingButPc : Obligations.ErrorsLeaveEverythingButPc := by
  intro s t ht
  rcases step_silent_or_returns s with h | ⟨e, hm, ⟨hpc, he, h⟩ | ⟨hpc, hne, h⟩⟩
  · exact .inl (h.errors_eq ht)
  · exact .inr ⟨e, hm, .inl ⟨hpc, he, h.eq_setErrors ht⟩⟩
  · exact .inr ⟨e, hm, .inr ⟨hpc, hne, h.eq_setErrors ht⟩⟩

/-- An operation that returns an error for every record puts it at the head of each. -/
theorem Returns.exists_new_errors {f : State → Result} {e : MachineError} {u : State}
    (h : Returns f s e u) (ht : f s = .next t) (es : List MachineError) :
    ∃ new, t.errors = new ++ s.errors ∧ f (s.setErrors es) = .next (t.setErrors (new ++ es)) := by
  rw [h.eq_setErrors ht]
  exact ⟨[e], rfl, h es⟩

/-- Settles O6: a silent step adds nothing to either record, and the others add the same error. -/
theorem earlierErrorsDoNotChangeExecution : Obligations.EarlierErrorsDoNotChangeExecution := by
  intro s t es ht
  rcases step_silent_or_returns s with h | ⟨e, -, ⟨-, -, h⟩ | ⟨-, -, h⟩⟩
  · exact ⟨[], h.errors_eq ht, h.eq_next ht es⟩
  · exact h.exists_new_errors ht es
  · exact h.exists_new_errors ht es

end Sys2Proof.Machine
end

section
/-!
PROOF. The statements about loading and finishing a program (spec/70_reset_and_hazards.md R162, R163,
R174): a jump as a write of PC that forgets the advance, the two cases of a load, and what they give.
-/

namespace Sys2Proof.Machine

variable {s : State}

/-! ## A finished program (R174, R81) -/

/-- A step on a jump leaves PC at the target: the advance past the jump is overwritten. -/
theorem step_of_jump {addr : Addr} (hm : s.mode = .running)
    (hf : s.fetchWord = .ok (encode (.jump addr))) : step s = .next (s.setPc (zextAddr addr)) :=
  step_of_decode hm hf (decodeWord_encode rfl)

theorem State.setPc_eq_self {w : Word} (h : s.pc = w) : s.setPc w = s := by
  subst h
  rfl

/-- Settles O19: the jump writes to PC the address PC already holds. -/
theorem parkedProgramStays : Obligations.ParkedProgramStays := by
  rintro s addr ⟨hm, hpc, hf⟩
  have htarget : s.pc = zextAddr addr :=
    BitVec.eq_of_toNat_eq (hpc.trans (zextAddr_toNat addr).symm)
  rw [step_of_jump hm hf, State.setPc_eq_self htarget]

/-! ## Loading a program (R162, R163) -/

theorem State.load_of_gt {rom : List Byte} (h : progMax < rom.length) :
    s.load rom = s.recordError (.loadError rom.length) :=
  if_neg (Nat.not_le_of_lt h)

/-- Settles O49: a ROM of at most 3584 bytes is a store that ends within memory, and a longer one is
the error. -/
theorem loadCopiesTheRom : Obligations.LoadCopiesTheRom := by
  refine fun rom s hwf => ⟨fun hlen => ?_, fun hlen => ?_⟩
  · have hfits : progBase + rom.length ≤ memSize := Nat.add_le_add_left hlen progBase
    exact ⟨_, congrArg Host.Outcome.next (State.load_of_le hlen),
      State.onlyBytes_writeBytes hfits hwf⟩
  · exact congrArg Host.Outcome.next (State.load_of_gt hlen)

end Sys2Proof.Machine
end
